-- ==== Sys2Proof/Word.lean ====
section
/-!
DEFINITION. The word types of the unit and the two containers the state is made of: a sparse table in one canonical
form, and a byte memory. Multi-byte values are little-endian (R6).
-/
namespace Sys2Proof

/-- A register of the control port (64 bits, scope chapter). -/
abbrev Word := BitVec 64

abbrev Byte := BitVec 8

/-- A sparse table: keys strictly rising, and no entry equal to what an unlisted key reads as. -/
abbrev Tab (α : Type) := List (Nat × α)

/-- An interval of addresses whose bytes the manual leaves undefined, with the seed of its free values. -/
structure Undef where
  lo : Nat
  hi : Nat
  seed : Nat
deriving DecidableEq, Repr

/-- A byte memory: what has been written, and which intervals are undefined since the last write there. -/
structure Mem where
  cells : Tab Byte
  undef : List Undef
deriving DecidableEq, Repr

/-- A memory in which nothing has been written. -/
def Mem.blank : Mem := ⟨[], []⟩

end Sys2Proof
end

