-- ==== Sys2Proof/Syntax.lean ====
section
/-!
DEFINITION. The commands of the unit: one constructor of `Instr` for each row of the table, with the row's operands.
A row that is a write of one register carries the 64 bits written; a row that is an event carries what the outside world
presents with it.
-/
namespace Sys2Proof

/-- A data token of an array edge link (R221). -/
structure Token where
  data : List Byte
  chan : BitVec 4
  tag : BitVec 16
  epoch : BitVec 4
  first : Bool
  last : Bool
deriving DecidableEq, Repr

/-- A control token of an array edge link (R222). -/
structure CtlToken where
  chan : BitVec 4
  tag : BitVec 16
  epoch : BitVec 4
  sel : BitVec 2
deriving DecidableEq, Repr

/-- What the link header of a frame without SEQ brings: ACK, and the buffer returned on one virtual channel (R283). -/
structure LinkCtl where
  ack : BitVec 16
  cvc : BitVec 2
  cred : BitVec 12
deriving DecidableEq, Repr

/-- A frame without SEQ: its link header, and what the body brings. -/
structure LinkMsg (α : Type) where
  head : LinkCtl
  body : α
deriving DecidableEq, Repr

/-- The bytes of a frame that is not whole, and the codewords that came with it, as the lanes brought them (R282). -/
structure RawFrame where
  bytes : List Byte
  words : List (Fin 8 × List Nat)
deriving DecidableEq, Repr

/-- The 32 B transport header (R290), words 2 and 3 kept whole. -/
structure NetHdr where
  op : BitVec 6
  dst : BitVec 20
  src : BitVec 20
  ctx : BitVec 6
  hops : BitVec 6
  fgen : BitVec 32
  txn : BitVec 16
  status : BitVec 8
  fmt : BitVec 8
  w2 : BitVec 64
  w3 : BitVec 64
deriving DecidableEq, Repr

/-- A DATA frame (R283). -/
structure Frame where
  vc : BitVec 2
  seq : BitVec 16
  ack : BitVec 16
  cvc : BitVec 2
  cred : BitVec 12
  hdr : NetHdr
  payload : List Byte
deriving DecidableEq, Repr

/-- Where a frame came from: a fabric port, or the node itself (a member that is its own coordinator, R306). -/
abbrev Ingress := Option (Fin 18)

/-- What one comparison window measured (R317, R320), errors in steps of 0.25 ppm against the oscillator. -/
structure ClockWindow where
  long : Bool            -- false: 10 us window, true: 250 us window
  refEdges : Bool        -- REFCLK showed an edge at least every 100 ns
  refErr : Int
  timeSeen : Bool        -- TIME frames of the upstream port arrived
  timeErr : Int
deriving DecidableEq, Repr

/-- A cell's resource the deadline arbiter grants (R225). -/
inductive Resource where
  | edge | crossway | bank
deriving DecidableEq, Repr

inductive Instr where
  -- control port
  | doorbell (c : Fin 64) (v : Word)
  | rcpHeadWrite (c : Fin 64) (v : Word)
  | run (c : Fin 64)
  | stop (c : Fin 64)
  | semWrite (c : Fin 64) (p : Fin 1024) (v : Word)
  | semSignal (c : Fin 64) (v : Word)
  | winSync (c : Fin 64) (v : Word)
  | wintabWrite (c : Fin 64) (v : Word)
  | hostAbort (c : Fin 64)
  | replay (c : Fin 64)
  | ctxIrqWrite (c : Fin 64) (v : Word)
  | glbIrqWrite (v : Word)
  | msiEnableWrite (v : Word)
  | timeSet (v : Word)
  | syncInNextWrite (v : Word)
  | upportWrite (v : Word)
  | trimSrcWrite (v : Word)
  | islandSwitch (v : Word)
  | islandReset (v : Word)
  | dvfsRequest (v : Word)
  | park (v : Word)
  | unpark (v : Word)
  | imageLoad (v : Word)
  | activate (v : Word)
  | discard (v : Word)
  | keysLock (v : Word)
  | fwLock (v : Word)
  | kick (v : Word)
  | handoverAck (v : Word)
  | fwRestart (v : Word)
  | stackRetire (v : Word)
  | stackReturn (v : Word)
  | serviceFence (n : Fin 12) (v : Word)
  | subst (n : Fin 12) (v : Word)
  | cellReturn (n : Fin 12) (v : Word)
  | spareTest (n : Fin 12) (v : Word)
  | laneRetire (p : Fin 18) (v : Word)
  | laneRejoin (p : Fin 18) (v : Word)
  | portRestart (p : Fin 18) (v : Word)
  | portEnableWrite (p : Fin 18) (v : Word)
  | ledgerCmdGo (v : Word)
  | nodeAddrWrite (v : Word)
  | badAccess (write : Bool)
  | registerWrite (addr : BitVec 24) (size4 : Bool) (v : Word)
  -- recipe front end
  | recipeFetch (c : Fin 64)
  | decodeValidate (c : Fin 64)
  -- recipe instructions
  | nop (c : Fin 64)
  | halt (c : Fin 64)
  | ctxsave (c : Fin 64)
  | tload (c : Fin 64)
  | tstore (c : Fin 64)
  | tmove (c : Fin 64)
  | trel (c : Fin 64)
  | trans2d (c : Fin 64)
  | perm (c : Fin 64)
  | rot (c : Fin 64)
  | gather (c : Fin 64)
  | scatter (c : Fin 64)
  | bucket (c : Fin 64)
  | sortk (c : Fin 64)
  | cvt (c : Fin 64)
  | reblock (c : Fin 64)
  | amax (c : Fin 64)
  | sopen (c : Fin 64)
  | sblock (c : Fin 64)
  | sclose (c : Fin 64)
  | carousel (c : Fin 64)
  | swait (c : Fin 64)
  | ssignal (c : Fin 64)
  | fence (c : Fin 64)
  | gen (c : Fin 64)
  | commit (c : Fin 64)
  | abort (c : Fin 64)
  | reshard (c : Fin 64)
  | rget (c : Fin 64)
  | rput (c : Fin 64)
  -- execution events
  | instructionRetire (c : Fin 64)
  | haltPointReached (c : Fin 64) (progress : List Nat)
  | indexPhaseBarrier (c : Fin 64)
  | swaitWake (c : Fin 64)
  | waitBoundExpire (c : Fin 64)
  | quantumExpire (c : Fin 64)
  | contextSwitchOut (c : Fin 64) (g : Fin 768)
  | contextRestore (c : Fin 64) (g : Fin 768)
  | flipBegin (c : Fin 64)
  | flipPoint (c : Fin 64)
  | flipComplete (c : Fin 64)
  | catchupCopyDone (c : Fin 64) (w : Fin 1024)
  | winSyncIdle (c : Fin 64)
  -- stack ports and Crossway
  | stackReadResponse (isl : Fin 12) (tag : BitVec 10) (err : Bool)
  | stackWriteResponse (isl : Fin 12) (tag : BitVec 10) (err : Bool)
  | stackRequestTimeout (isl : Fin 12) (write : Bool) (tag : BitVec 10)
  | stackCtrlLost (isl : Fin 12)
  | pieceAgeExpire (target : Fin 40) (idx : Nat)
  | lockedSequenceClose (m : Fin 30)
  | lockTimeout (m : Fin 30)
  | eccUncorrectable (g : Fin 768) (cause : Fin 3)
  -- streams, edge links, beat
  | streamTokenSend (g : Fin 768) (r : Resource)
  | dataTokenReceive (g : Fin 768) (t : Token)
  | controlTokenReceive (g : Fin 768) (t : CtlToken)
  | creditReturn (g : Fin 768) (chan : BitVec 4) (countM1 : BitVec 4) (parityOk : Bool)
  | pairTimeout (g : Fin 768) (chan : BitVec 4)
  | blockComplete (c : Fin 64) (q : BitVec 4) (id : Nat)
  | queueClosed (g : Fin 768) (q : BitVec 4)
  | rateWindowEnd (g : Fin 768) (q : BitVec 4)
  | carouselRotation (n : Fin 12) (q : BitVec 4)
  | beatEdge (notReady : List (Nat × BitVec 16)) (heldCycles : Nat) (heldUs : Nat)
  | beatStretchTimeout
  | layerAdvance
  -- power, clocks, time
  | powerUp (caps : List (BitVec 8)) (bootPin : Bool)
  | unitReset (ns : Nat)
  | refclkWindowEnd (w : ClockWindow)
  | oscEdgeTimeout
  | coastEnd
  | pllStop
  | islandSwitchDone (isl : Fin 16)
  | switchWatchdog (isl : Fin 16)
  | islandResetRelease (isl : Fin 16)
  | dvfsDone (steward : Bool)
  | powerSample (dp mem lk : Nat)
  | sliceAutoGate (n : Fin 12)
  | parkDone
  | parkExitDone
  | timeFrameSend (p : Fin 18)
  | timeFrameReceive (p : Fin 18) (t : LinkMsg Word)
  | timeFrameTimeout
  | holdoverExpire
  | syncInEdge (highNs : Nat)
  | syncInMissed
  | syncOutPulse
  -- fabric link and transport
  | laneReady (p : Fin 18) (l : Fin 8)
  | laneLost (p : Fin 18) (l : Fin 8)
  | ack (p : Fin 18) (ackNo : BitVec 16) (cvc : BitVec 2) (cred : BitVec 12)
  | nak (p : Fin 18) (head : LinkCtl)
  | probe (p : Fin 18) (uid : LinkMsg Word) (port : BitVec 8) (build : BitVec 8)
  | lanemap (p : Fin 18) (map : LinkMsg (BitVec 8))
  | badFrame (p : Fin 18) (raw : RawFrame)
  | retxExpire (p : Fin 18)
  | ackTimer (p : Fin 18)
  | probeTimer (p : Fin 18)
  | frameForward (p : Fin 18) (f : Frame)
  | readReq (p : Ingress) (f : Frame)
  | readResp (p : Ingress) (f : Frame)
  | write (p : Ingress) (f : Frame)
  | writeAck (p : Ingress) (f : Frame)
  | genJoin (p : Ingress) (f : Frame)
  | genOpen (p : Ingress) (f : Frame)
  | genVote (p : Ingress) (f : Frame)
  | genDecide (p : Ingress) (f : Frame)
  | genAbortReq (p : Ingress) (f : Frame)
  | genInquire (p : Ingress) (f : Frame)
  | ledgerSet (p : Ingress) (f : Frame)
  | regRd (p : Ingress) (f : Frame)
  | regWr (p : Ingress) (f : Frame)
  | mgmtResp (p : Ingress) (f : Frame)
  | reqTimeoutExpire (txn : BitVec 16)
  | residencyRetry (txn : BitVec 16)
  | genJoinResend (c : Fin 64)
  | genTimeoutExpire (coord : Bool) (k : Nat)
  | ledgerDeferredApply
  | stackJoinOnline (isl : Fin 12)
  | migrationCopyDone
  -- configuration and firmware
  | bootBundleLoad (primary golden : List Byte)
  | imageDataReceive (data : List Byte) (endMark : Bool)
  | signatureCheckDone
  | portTimeoutExpire
  | drainComplete
  | drainTimeout
  | activationComplete
  | handoverTimeout
  | stewardReloadDone
  | watchdogExpire
  | scrubFrame (region : Fin 13) (frame : Fin 512) (retained : List Byte)
  | selfTestDone (n : Fin 12) (pass : Bool)
  | tasterSample
  | msiSend
  -- test access
  | extest
  | samplePreload
  | idcode
  | clamp
  | ijtagAccess
  | bypass
  | testLogicReset
  | clockActivityMonitor (tclk osc pll : Bool)
  | respTimeoutRetry (c : Fin 64) (w : Fin 1024)
  | reservedOpFrame (p : Ingress) (f : Frame)
  | readyParityError (g : Fin 768)
deriving DecidableEq, Repr

end Sys2Proof
end

