-- ==== Sys2Proof/Decode.lean ====
section
/-!
DEFINITION. The command a word spells by the bits of the table. No row of the table gives bits, so no word spells one
(DEDUCED, log 12): commands come to the unit as register accesses, pins, frames and events.
-/
namespace Sys2Proof

def decodeTableWord (nbits w : Nat) : Option Instr :=
  match nbits, w with
  | _, _ => none

end Sys2Proof
end

