-- ==== Sys2Proof/Config.lean ====
section
/-!
DEFINITION. What an implementation fixes, and the free values: opaque constants without a body, so that nothing can be
proved about the value they give (logs 9, 10, 11).
-/
namespace Sys2Proof

/-- A choice the manual leaves open (which writer ANY keeps, R133; the order of a sum, R134), for the model's counter. -/
opaque Config.draw : Nat → Nat

/-- The 16-bit random number of stochastic rounding (R71) that a generator gives (R72): seed, global cell index, position in the
recipe, how many numbers it has given before. -/
opaque Config.srRandom : BitVec 64 → Nat → BitVec 32 → Nat → BitVec 16

/-- The sign of the NaN that an element under the scale 0xFF becomes (R62 says only NaN): the element's sign, and a code of its
magnitude and power (DESIGN CHOICE, log 113). -/
opaque Config.nanSign : Bool → Nat → Int → Bool

/-- A byte the manual calls undefined: seed of the interval, address. -/
opaque Config.freeByte : Nat → Nat → BitVec 8

/-- The Lattice slots that the frame payloads of a slice image hold (R114, R338): the payload layout is not given. -/
opaque Config.latticeSlots : List (Nat × List (BitVec 8)) → BitVec 64

/-- The ROM frames' golden signature (R352): region code, frame index. -/
opaque Config.romSignature : Nat → Nat → BitVec 32

/-- A 64-bit word the unit lays out in a way of its own (header, kept copies, position blocks of a save area, R258). -/
opaque Config.ownLayout : Nat → BitVec 64

/-- Logarithm of the block size behind a Ledger entry, in 64 KiB, as its owner knows it: no frame carries it (R303). -/
opaque Config.blockLog : Nat → Nat

/-- A power figure below which the limiter restores a step is 95 % of the maximum (R333): per mille. -/
def Config.restorePerMille : Nat := 950

end Sys2Proof
end

