-- ==== Sys2Proof/Machine/Table.lean ====
section
/-!
DEFINITION. Operations on sparse tables and byte memories, and the bit-field helpers. A table keeps one canonical form, so
that equal contents are equal data; an unlisted byte of a memory reads as 0 (DESIGN CHOICE, log 7), or as a free byte inside an interval
whose contents the manual leaves undefined (DESIGN CHOICE, log 11).
-/
namespace Sys2Proof

/-- What key `k` holds; `d` where it is not listed. -/
def tabGet {α : Type} (d : α) : Tab α → Nat → α
  | [], _ => d
  | (j, v) :: t, k => if k = j then v else if k < j then d else tabGet d t k

/-- The entries above `k`. -/
def tabAbove {α : Type} : Tab α → Nat → Tab α
  | [], _ => []
  | (j, v) :: t, k => if j ≤ k then tabAbove t k else (j, v) :: t

/-- Key `k` set to `v`; setting the default removes the entry. -/
def tabSet {α : Type} [DecidableEq α] (d : α) : Tab α → Nat → α → Tab α
  | [], k, v => if v = d then [] else [(k, v)]
  | (j, w) :: t, k, v =>
    if j < k then (j, w) :: tabSet d t k v
    else if v = d then tabAbove ((j, w) :: t) k else (k, v) :: tabAbove ((j, w) :: t) k

/-- The canonical form: keys strictly rising and no entry equal to the default. -/
def tabWf {α : Type} [DecidableEq α] (d : α) : Tab α → Bool
  | [] => true
  | [(_, v)] => decide (v ≠ d)
  | (j, v) :: (k, w) :: t => decide (v ≠ d) && decide (j < k) && tabWf d ((k, w) :: t)

/-- What an unlisted address of a memory reads as. -/
def undefByte : List Undef → Nat → Byte
  | [], _ => 0
  | u :: t, a => if u.lo ≤ a ∧ a < u.hi then Config.freeByte u.seed a else undefByte t a

/-- Does the address lie in an undefined interval. -/
def Mem.hidden (m : Mem) (a : Nat) : Bool := m.undef.any (fun u => decide (u.lo ≤ a ∧ a < u.hi))

/-- Addresses strictly rising. -/
def cellsRise : Tab Byte → Bool
  | [] => true
  | [_] => true
  | (j, _) :: (k, w) :: t => decide (j < k) && cellsRise ((k, w) :: t)

/-- The canonical form of a memory: addresses strictly rising, and no byte of 0 listed outside the undefined intervals. -/
abbrev Mem.wf (m : Mem) : Bool := cellsRise m.cells && m.cells.all (fun e => decide (e.2 ≠ 0) || m.hidden e.1)

/-- The listed byte at `a`, if there is one. -/
def cellAt : Tab Byte → Nat → Option Byte
  | [], _ => none
  | (j, v) :: t, k => if k = j then some v else if k < j then none else cellAt t k

/-- One byte read. -/
def Mem.get (m : Mem) (a : Nat) : Byte :=
  match cellAt m.cells a with
  | some b => b
  | none => undefByte m.undef a

/-- A listed byte set, or removed. -/
def cellSet : Tab Byte → Nat → Option Byte → Tab Byte
  | [], k, some v => [(k, v)]
  | [], _, none => []
  | (j, w) :: t, k, v =>
    if j < k then (j, w) :: cellSet t k v
    else match v with
      | none => tabAbove ((j, w) :: t) k
      | some b => (k, b) :: tabAbove ((j, w) :: t) k

/-- One byte written. A byte equal to what the unlisted address reads as is not listed; inside an undefined interval every
written byte is, since what it would read as there is free. -/
def Mem.set (m : Mem) (a : Nat) (b : Byte) : Mem :=
  { m with cells := cellSet m.cells a (if b = 0 ∧ m.hidden a = false then none else some b) }

/-- The bytes from `a` on, lowest address first. -/
def Mem.read (m : Mem) (a n : Nat) : List Byte := (List.range n).map (fun i => m.get (a + i))

def Mem.write (m : Mem) (a : Nat) : List Byte → Mem
  | [] => m
  | b :: bs => Mem.write (m.set a b) (a + 1) bs

/-- The interval [lo, hi) becomes undefined (logs 9, 11). -/
def Mem.scramble (m : Mem) (lo hi seed : Nat) : Mem :=
  ⟨m.cells.filter (fun e => !decide (lo ≤ e.1 ∧ e.1 < hi)), ⟨lo, hi, seed⟩ :: m.undef⟩

/-! ## Bits and bytes -/

/-- Bits [hi:lo] of a natural number. -/
def field (w hi lo : Nat) : Nat := (w / 2 ^ lo) % 2 ^ (hi + 1 - lo)

def bitAt (w i : Nat) : Bool := decide ((w / 2 ^ i) % 2 = 1)

/-- Little-endian value (R6). -/
def leNat : List Byte → Nat
  | [] => 0
  | b :: bs => b.toNat + 256 * leNat bs

/-- The `n` bytes of a value, least significant first (R6). -/
def natLe : Nat → Nat → List Byte
  | 0, _ => []
  | n + 1, v => BitVec.ofNat 8 v :: natLe n (v / 256)

/-- Big-endian value. -/
def beNat (bs : List Byte) : Nat := bs.foldl (fun a b => a * 256 + b.toNat) 0

/-- Two's complement of width `w`. -/
def signedOf (w v : Nat) : Int := if v % 2 ^ w < 2 ^ (w - 1) then (v % 2 ^ w : Nat) else (v % 2 ^ w : Nat) - (2 ^ w : Nat)

/-- The low `w` bits of an integer. -/
def wrapTo (w : Nat) (v : Int) : Nat := (v % (2 ^ w : Nat)).toNat

def b2n (b : Bool) : Nat := if b then 1 else 0

def boolNat (b : Bool) (at_ : Nat) : Nat := if b then 2 ^ at_ else 0

/-- Numbers below `n` whose bit in `mask` is 1, ascending. -/
def bitsOf (n mask : Nat) : List Nat := (List.range n).filter (bitAt mask)

def listGet (l : List Nat) (k : Nat) : Nat := l.getD k 0

def listSet {α : Type} (l : List α) (k : Nat) (v : α) : List α := l.set k v

def ceilDiv (a b : Nat) : Nat := (a + b - 1) / b

def roundUp (a b : Nat) : Nat := ceilDiv a b * b

def sumNat (l : List Nat) : Nat := l.foldl (· + ·) 0

def prodNat (l : List Nat) : Nat := l.foldl (· * ·) 1

def sumInt (l : List Int) : Int := l.foldl (· + ·) 0

end Sys2Proof
end

