-- ==== Sys2Proof/Machine/Crypto.lean ====
section
/-!
DEFINITION. SHA-384 and the verification of an ECDSA P-384 signature, which an image and a firmware slot must pass (R340, R343).
The manual names both by name only: they are those of FIPS 180-4 and FIPS 186-4 (PRESUMED, log 32).
-/
namespace Sys2Proof

/-! ## SHA-384 -/

/-- The greatest number below 2^n whose k-th power does not pass m, found bit by bit on top of x. -/
def rootBits (k m : Nat) : Nat → Nat → Nat
  | 0, x => x
  | n + 1, x => rootBits k m n (if (x + 2 ^ n) ^ k ≤ m then x + 2 ^ n else x)

/-- The first 64 bits of the fraction of the k-th root of p, for a root below 64. -/
def rootFraction (k p : Nat) : BitVec 64 := BitVec.ofNat 64 (rootBits k (p * 2 ^ (64 * k)) 70 0)

/-- The first 80 primes. -/
def shaPrimes : List Nat :=
  (List.range 410).filter (fun n => decide (2 ≤ n) && (List.range 21).all (fun d => decide (d < 2 ∨ n ≤ d ∨ n % d ≠ 0)))

/-- One constant for each round: from the cube root of its prime. -/
def shaRounds : List (BitVec 64) := shaPrimes.map (rootFraction 3)

/-- The working variables a message starts from: square roots of the ninth to the sixteenth prime. -/
def shaStart : List (BitVec 64) := ((shaPrimes.drop 8).take 8).map (rootFraction 2)

/-- The sum without carry of a word turned right by each of some distances. -/
def turned (x : BitVec 64) (l : List Nat) : BitVec 64 := l.foldl (fun acc n => acc ^^^ x.rotateRight n) 0

/-- The working variables, by their letters in the standard. -/
structure ShaVars where
  a : BitVec 64
  b : BitVec 64
  c : BitVec 64
  d : BitVec 64
  e : BitVec 64
  f : BitVec 64
  g : BitVec 64
  h : BitVec 64

/-- One round, with the sum of its constant and its message word. -/
def ShaVars.round (v : ShaVars) (kw : BitVec 64) : ShaVars :=
  let choice := v.g ^^^ (v.e &&& (v.f ^^^ v.g))
  let most := (v.a &&& v.b) ||| (v.c &&& (v.a ||| v.b))
  let up := kw + v.h + choice + turned v.e [41, 18, 14]
  { a := up + most + turned v.a [39, 34, 28], b := v.a, c := v.b, d := v.c, e := v.d + up, f := v.e, g := v.f, h := v.g }

/-- The message words of the rounds: sixteen words in a window that moves on by one word a round. -/
def shaSlide (w : List (BitVec 64)) : List (BitVec 64) :=
  let near := w.getD 1 0
  let far := w.getD 14 0
  w.tail ++ [w.headD 0 + (near >>> 7 ^^^ turned near [8, 1]) + w.getD 9 0 + (far >>> 6 ^^^ turned far [61, 19])]

def shaRun : List (BitVec 64) → List (BitVec 64) → ShaVars → ShaVars
  | [], _, v => v
  | k :: t, w, v => shaRun t (shaSlide w) (v.round (k + w.headD 0))

/-- One block of a message joins the eight words reached so far. -/
def shaBlock (h w : List (BitVec 64)) : List (BitVec 64) :=
  let at_ := fun (n : Nat) => h.getD n 0
  let v := shaRun shaRounds w ⟨at_ 0, at_ 1, at_ 2, at_ 3, at_ 4, at_ 5, at_ 6, at_ 7⟩
  h.zipWith (fun x y => x + y) [v.a, v.b, v.c, v.d, v.e, v.f, v.g, v.h]

def shaWords : Nat → List Byte → List (BitVec 64)
  | 0, _ => []
  | n + 1, bs => BitVec.ofNat 64 (beNat (bs.take 8)) :: shaWords n (bs.drop 8)

/-- The `n` blocks of a padded message. -/
def shaBlocks : Nat → List Byte → List (BitVec 64) → List (BitVec 64)
  | 0, _, h => h
  | n + 1, bs, h => shaBlocks n (bs.drop 128) (shaBlock h (shaWords 16 bs))

def shaPad (bs : List Byte) : List Byte :=
  let n := bs.length
  bs ++ [0x80] ++ List.replicate ((128 - (n + 17) % 128) % 128) 0 ++ (natLe 16 (8 * n)).reverse

/-- The digest, as a big-endian number of 384 bits. -/
def sha384 (bs : List Byte) : Nat :=
  let m := shaPad bs
  ((shaBlocks (m.length / 128) m shaStart).take 6).foldl (fun a w => a * 2 ^ 64 + w.toNat) 0

/-! ## P-384 -/

def p384 : Nat := 2 ^ 384 - 2 ^ 128 - 2 ^ 96 + 2 ^ 32 - 1
def n384 : Nat := 0xffffffffffffffffffffffffffffffffffffffffffffffffc7634d81f4372ddf581a0db248b0a77aecec196accc52973
def b384 : Nat := 0xb3312fa7e23ee7e4988e056be3f82d19181d9c6efe8141120314088f5013875ac656398d8a2ed19d2a85c8edd3ec2aef
def g384 : Nat × Nat :=
  (0xaa87ca22be8b05378eb1c71ef320ad746e1d3b628ba79b9859f741e082542a385502f25dbf55296c3a545e3872760ab7,
   0x3617de4a96262c6f5d9e98bf9292dc29f8f41dbd289a147ce9da3113b5f0b8c00a60b1ce1d7e819d7a431d7c90ea0e5f)

/-- x to the power e modulo m, over the low `n` bits of e. -/
def powMod (m : Nat) : Nat → Nat → Nat → Nat
  | 0, _, _ => 1 % m
  | n + 1, x, e =>
    let r := powMod m n (x * x % m) (e / 2)
    if e % 2 = 1 then r * x % m else r

/-- The inverse modulo a prime of 384 bits. -/
def invMod (m x : Nat) : Nat := powMod m 384 (x % m) (m - 2)

def subMod (m a b : Nat) : Nat := (a + (m - b % m)) % m

/-- A point of the curve; none: the point at infinity. -/
abbrev Point := Option (Nat × Nat)

def onCurve (q : Nat × Nat) : Bool :=
  decide (q.1 < p384 ∧ q.2 < p384) && decide (q.2 * q.2 % p384 = subMod p384 (q.1 * q.1 % p384 * q.1 + b384) (3 * q.1))

/-- The third point of the line with slope l through two points. -/
def chord (l x1 y1 x2 : Nat) : Point :=
  let x := subMod p384 (subMod p384 (l * l) x1) x2
  some (x, subMod p384 (l * subMod p384 x1 x) y1)

def pointAdd (a b : Point) : Point :=
  match a, b with
  | none, _ => b
  | _, none => a
  | some (x1, y1), some (x2, y2) =>
    if x1 = x2 then
      if (y1 + y2) % p384 = 0 then none
      else chord ((3 * x1 * x1 + (p384 - 3)) * invMod p384 (2 * y1) % p384) x1 y1 x2
    else chord (subMod p384 y2 y1 * invMod p384 (subMod p384 x2 x1) % p384) x1 y1 x2

/-- k times a point, over the low `n` bits of k. -/
def pointMul : Nat → Nat → Point → Point
  | 0, _, _ => none
  | n + 1, k, q =>
    let r := pointMul n (k / 2) (pointAdd q q)
    if k % 2 = 1 then pointAdd q r else r

/-- Whether (r, s) signs the digest `e` under the public key `q`. -/
def ecdsaOk (q : Nat × Nat) (e r s : Nat) : Bool :=
  if onCurve q ∧ 0 < r ∧ r < n384 ∧ 0 < s ∧ s < n384 then
    let w := invMod n384 s
    match pointAdd (pointMul 384 (e * w % n384) (some g384)) (pointMul 384 (r * w % n384) (some q)) with
    | some (x, _) => decide (x % n384 = r)
    | none => false
  else false

end Sys2Proof
end

