-- ==== Sys2Proof/Machine/Flags.lean ====
section
/-!
DEFINITION. The format converter: format codes (R55), bit layouts (R57, R58), the exact value of an element (R62, R66), the
one rounding of a conversion (R67, R68, R70, R71), the sticky bits it sets (R69), microscale blocks (R63), amax (R73, R74)
and the combines of R134.
-/
namespace Sys2Proof

/-! ## Format codes -/

/-- The element pattern of MXINT8, which has no format code of its own (R58). -/
def elemMxInt8 : Nat := 0x36

/-- R55. -/
def fmtKnown (f : Nat) : Bool :=
  [0x01, 0x02, 0x03, 0x10, 0x11, 0x12, 0x13, 0x14, 0x20, 0x21, 0x22, 0x30, 0x31, 0x32, 0x33, 0x34, 0x35, 0x40].contains f

def fmtMx (f : Nat) : Bool := decide (0x30 ≤ f ∧ f ≤ 0x35)

/-- The element pattern inside a block format; the format itself otherwise. -/
def fmtElem (f : Nat) : Nat :=
  match f with
  | 0x30 => 0x10
  | 0x31 => 0x11
  | 0x32 => 0x12
  | 0x33 => 0x13
  | 0x34 => 0x14
  | 0x35 => elemMxInt8
  | _ => f

/-- Width of one element in bits (R55, R57, R58). -/
def fmtBits (f : Nat) : Nat :=
  match fmtElem f with
  | 0x01 => 32
  | 0x02 => 16
  | 0x03 => 16
  | 0x12 => 6
  | 0x13 => 6
  | 0x14 => 4
  | 0x21 => 4
  | 0x22 => 4
  | _ => 8

def fmtSubByte (f : Nat) : Bool := decide (fmtBits f < 8)

/-- The size E of R32 and R60 in bytes. -/
def fmtBytes (f : Nat) : Nat := fmtBits f / 8

/-- Elements of a pack group (R31). -/
def fmtGroup (f : Nat) : Nat :=
  match fmtBits f with
  | 4 => 2
  | 6 => 4
  | _ => 1

/-- Which encodings of a floating-point format are special (R57). -/
inductive Special where
  | ieee | nanOnly | none
deriving DecidableEq, Repr

structure FloatFmt where
  ebits : Nat
  mbits : Nat
  bias : Nat
  special : Special
deriving DecidableEq, Repr

/-- R57. -/
def floatFmt (f : Nat) : Option FloatFmt :=
  match f with
  | 0x01 => some ⟨8, 23, 127, .ieee⟩
  | 0x02 => some ⟨8, 7, 127, .ieee⟩
  | 0x03 => some ⟨5, 10, 15, .ieee⟩
  | 0x10 => some ⟨4, 3, 7, .nanOnly⟩
  | 0x11 => some ⟨5, 2, 15, .ieee⟩
  | 0x12 => some ⟨3, 2, 3, .none⟩
  | 0x13 => some ⟨2, 3, 1, .none⟩
  | 0x14 => some ⟨2, 1, 1, .none⟩
  | _ => none

/-! ## Exact values -/

/-- An exact value: sign, integer significand, power of two; or one the manual leaves open (DESIGN CHOICE, log 9). -/
inductive Num where
  | nan (neg : Bool)
  | inf (neg : Bool)
  | fin (neg : Bool) (mant : Nat) (exp : Int)
  | free (seed : Nat)
deriving DecidableEq, Repr

def decodeFloat (k : FloatFmt) (w : Nat) : Num :=
  let m := w % 2 ^ k.mbits
  let e := (w / 2 ^ k.mbits) % 2 ^ k.ebits
  let neg := bitAt w (k.mbits + k.ebits)
  let top := 2 ^ k.ebits - 1
  if k.special = .ieee ∧ e = top then (if m = 0 then .inf neg else .nan neg)
  else if k.special = .nanOnly ∧ e = top ∧ m = 2 ^ k.mbits - 1 then .nan neg
  else if e = 0 then .fin neg m (1 - (k.bias : Int) - (k.mbits : Int))
  else .fin neg (m + 2 ^ k.mbits) ((e : Int) - (k.bias : Int) - (k.mbits : Int))

def numOfInt (v : Int) (exp : Int) : Num := .fin (decide (v < 0)) v.natAbs exp

/-- The exact value of an element's bits (R57, R58, R66). -/
def decodeElem (f : Nat) (w : Nat) : Num :=
  match floatFmt f with
  | some k => decodeFloat k w
  | none =>
    match f with
    | 0x20 => numOfInt (signedOf 8 w) 0
    | 0x21 => numOfInt (signedOf 4 w) 0
    | 0x22 => numOfInt (w % 16 : Nat) 0
    | 0x36 => numOfInt (signedOf 8 w) (-6)
    | _ => if w % 256 = 255 then .nan false else .fin false 1 ((w % 256 : Nat) - (127 : Int))

/-- An element under its block's scale byte (R62). The sign of the NaN that the scale 0xFF makes of it is free (DESIGN CHOICE, log 113). -/
def scaleNum (x : Nat) (v : Num) : Num :=
  if x % 256 = 255 then
    .nan (match v with
      | .nan n => Config.nanSign n 0 0
      | .inf n => Config.nanSign n 1 0
      | .fin n m e => Config.nanSign n (m + 2) e
      | .free k => Config.nanSign false k (-1))
  else match v with
    | .fin n m e => .fin n m (e + ((x % 256 : Nat) - (127 : Int)))
    | v => v

/-! ## Rounding -/

/-- The low bits of the random number are taken when ROUND is SR (R71). -/
inductive Rnd where
  | rne | rtz | sr (r : Nat)
deriving DecidableEq, Repr

/-- The multiple of 2^q that `m` times 2^e rounds to, as a count (R70, R71). -/
def roundCount (rnd : Rnd) (m : Nat) (e q : Int) : Nat :=
  if q ≤ e then m * 2 ^ (e - q).toNat
  else
    let d := 2 ^ (q - e).toNat
    let t := m / d
    let r := m % d
    match rnd with
    | .rtz => t
    | .rne => if 2 * r < d then t else if 2 * r > d then t + 1 else t + t % 2
    | .sr x => if (r * 65536) / d + x % 65536 ≥ 65536 then t + 1 else t

/-- floor(log2) of a nonzero value. -/
def numLog (m : Nat) (e : Int) : Int := (Nat.log2 m : Int) + e

/-- m1 times 2^e1 compared with m2 times 2^e2. -/
def magLt (m1 : Nat) (e1 : Int) (m2 : Nat) (e2 : Int) : Bool :=
  if e1 ≤ e2 then decide (m1 < m2 * 2 ^ (e2 - e1).toNat) else decide (m1 * 2 ^ (e1 - e2).toNat < m2)

/-- Least exponent of a unit in the last place. -/
def FloatFmt.qmin (k : FloatFmt) : Int := 1 - (k.bias : Int) - (k.mbits : Int)

/-- Significand and power of the largest finite value (R57). -/
def FloatFmt.maxFin (k : FloatFmt) : Nat × Int :=
  match k.special with
  | .ieee => (2 ^ (k.mbits + 1) - 1, (2 ^ k.ebits : Nat) - (2 : Int) - (k.bias : Int) - (k.mbits : Int))
  | .nanOnly => (2 ^ (k.mbits + 1) - 2, (2 ^ k.ebits : Nat) - (1 : Int) - (k.bias : Int) - (k.mbits : Int))
  | .none => (2 ^ (k.mbits + 1) - 1, (2 ^ k.ebits : Nat) - (1 : Int) - (k.bias : Int) - (k.mbits : Int))

def FloatFmt.sign (k : FloatFmt) (neg : Bool) : Nat := boolNat neg (k.mbits + k.ebits)

/-- Bits of n times 2^q, which the format holds. -/
def FloatFmt.pack (k : FloatFmt) (neg : Bool) (n : Nat) (q : Int) : Nat :=
  let l := Nat.log2 n
  if n = 0 then k.sign neg
  else if (l : Int) + q < k.qmin + k.mbits then k.sign neg + n * 2 ^ (q - k.qmin).toNat
  else
    let frac := if l ≤ k.mbits then n * 2 ^ (k.mbits - l) else n / 2 ^ (l - k.mbits)
    k.sign neg + ((l : Int) + q + k.bias).toNat * 2 ^ k.mbits + frac % 2 ^ k.mbits

def FloatFmt.packMax (k : FloatFmt) (neg : Bool) : Nat := k.pack neg k.maxFin.1 k.maxFin.2

def FloatFmt.packInf (k : FloatFmt) (neg : Bool) : Nat := k.sign neg + (2 ^ k.ebits - 1) * 2 ^ k.mbits

/-- R68: the NaN written to a format that has one. -/
def FloatFmt.packNan (k : FloatFmt) (neg : Bool) : Nat :=
  match k.special with
  | .ieee => k.packInf neg + 2 ^ (k.mbits - 1)
  | _ => k.sign neg + 2 ^ (k.mbits + k.ebits) - 1

/-! ## Sticky bits (R69) -/

def flagUnderflow : BitVec 5 := 1
def flagOvfNan : BitVec 5 := 2
def flagOvfInf : BitVec 5 := 4
def flagSaturated : BitVec 5 := 8
def flagNanZero : BitVec 5 := 16

/-- Where a rounded magnitude lies, and what the least unit is. -/
def FloatFmt.quantum (k : FloatFmt) (m : Nat) (e : Int) : Int := max k.qmin (numLog m e - k.mbits)

/-- An exact finite value into a floating-point format (R67, R68). -/
def encodeFloatFin (k : FloatFmt) (rnd : Rnd) (sat : Bool) (neg : Bool) (m : Nat) (e : Int) : Nat × BitVec 5 :=
  if m = 0 then (k.sign neg, 0)
  else
    let q := k.quantum m e
    let n := roundCount rnd m e q
    if n = 0 then (k.sign neg, flagUnderflow)
    else if rnd = .rtz ∧ magLt k.maxFin.1 k.maxFin.2 m e then (k.packMax neg, flagSaturated)
    else if magLt k.maxFin.1 k.maxFin.2 n q then
      match k.special, sat with
      | .ieee, false => (k.packInf neg, flagOvfInf)
      | .nanOnly, false => (k.packNan neg, flagOvfNan)
      | _, _ => (k.packMax neg, flagSaturated)
    else (k.pack neg n q, 0)

/-- The ends of an integer format, in units of 2^q, and the unit. -/
def intRange (f : Nat) : Int × Int × Int :=
  match f with
  | 0x20 => (-128, 127, 0)
  | 0x21 => (-8, 7, 0)
  | 0x22 => (0, 15, 0)
  | _ => (-128, 127, -6)

/-- An exact finite value into an integer format. It is rounded before the range is judged, as R70 says, so that a value beyond the range
that RTZ brings to its end sets no bit; the RTZ row of R68 speaks of the source alone (DESIGN CHOICE, log 118). -/
def encodeIntFin (f : Nat) (rnd : Rnd) (neg : Bool) (m : Nat) (e : Int) : Nat × BitVec 5 :=
  let (lo, hi, q) := intRange f
  let n := roundCount rnd m e q
  let v : Int := if neg then -(n : Int) else n
  if m ≠ 0 ∧ n = 0 then (0, flagUnderflow)
  else if v < lo then (wrapTo (fmtBits f) lo, flagSaturated)
  else if hi < v then (wrapTo (fmtBits f) hi, flagSaturated)
  else (wrapTo (fmtBits f) v, 0)

/-- One conversion into a format that is no block format (R67, R68). -/
def encodeElem (f : Nat) (rnd : Rnd) (sat : Bool) (v : Num) : Nat × BitVec 5 :=
  match v with
  | .free seed => (Config.draw seed % 2 ^ fmtBits f, 0)
  | .fin neg m e =>
    match floatFmt f with
    | some k => encodeFloatFin k rnd sat neg m e
    | none => encodeIntFin f rnd neg m e
  | .inf neg =>
    match floatFmt f with
    | some k =>
      match k.special, sat with
      | .ieee, false => (k.packInf neg, flagOvfInf)
      | .nanOnly, false => (k.packNan neg, flagOvfNan)
      | _, _ => (k.packMax neg, flagSaturated)
    | none =>
      let (lo, hi, _) := intRange f
      (wrapTo (fmtBits f) (if neg then lo else hi), flagSaturated)
  | .nan neg =>
    match floatFmt f with
    | some k => if k.special = .none then (0, flagNanZero) else (k.packNan neg, 0)
    | none => (0, flagNanZero)

/-! ## Microscale blocks (R63) -/

def blockEmax (elem : Nat) : Int :=
  match elem with
  | 0x10 => 8
  | 0x11 => 15
  | 0x12 => 4
  | 0x13 => 2
  | 0x14 => 2
  | _ => 0

/-- The larger magnitude of two finite nonnegative pairs. -/
def magMax (a b : Nat × Int) : Nat × Int := if magLt a.1 a.2 b.1 b.2 then b else a

def numMag : Num → Nat × Int
  | .fin _ m e => (m, e)
  | _ => (0, 0)

def numSpecial : Num → Bool
  | .nan _ => true
  | .inf _ => true
  | _ => false

def numNeg : Num → Bool
  | .nan n => n
  | .inf n => n
  | .fin n _ _ => n
  | .free _ => false

/-- One element of a block, its value already divided by the scale: rounded once and saturated (R63). -/
def encodeBlockElem (elem : Nat) (rnd : Rnd) (neg : Bool) (m : Nat) (e : Int) : Nat × BitVec 5 :=
  match floatFmt elem with
  | some k =>
    if m = 0 then (k.sign neg, 0)
    else
      let q := k.quantum m e
      let n := roundCount rnd m e q
      if n = 0 then (k.sign neg, flagUnderflow)
      else if magLt k.maxFin.1 k.maxFin.2 n q then (k.packMax neg, 0)
      else (k.pack neg n q, 0)
  | none =>
    let n := roundCount rnd m e (-6)
    let v : Int := if neg then -(n : Int) else n
    if m ≠ 0 ∧ n = 0 then (0, flagUnderflow)
    else (wrapTo 8 (max (-128) (min 127 v)), 0)

/-- R63: the exponent of a block's scale before it is clamped. -/
def blockExp (elem : Nat) (amax : Nat × Int) : Int := numLog amax.1 amax.2 - blockEmax elem

/-- R63: scale byte, elements and sticky bits of one block; `rnd i` rounds element i. -/
def encodeBlock (elem : Nat) (rnd : Nat → Rnd) (v : List Num) : Nat × List Nat × BitVec 5 :=
  if v.any numSpecial then (0xFF, v.map (fun _ => 0), 0)
  else
    let amax := v.foldl (fun a x => magMax a (numMag x)) (0, 0)
    let zero := fun (x : Num) => match floatFmt elem with
      | some k => k.sign (numNeg x)
      | none => 0
    if amax.1 = 0 then (0x7F, v.map zero, 0)
    else
      let raw := blockExp elem amax
      let e := min (max raw (-127)) 127
      let q := v.zipIdx.map (fun (x, i) => match x with
        | .fin neg m ex => encodeBlockElem elem (rnd i) neg m (ex - e)
        | x => encodeElem elem (rnd i) true x)
      let f := q.foldl (fun a x => a ||| x.2) (if 127 < raw then flagSaturated else 0)
      ((e + 127).toNat, q.map (·.1), f)

/-! ## Amax (R73, R74) -/

/-- The magnitude that counts for amax; NaN above Inf above every finite value. -/
def amaxOf (a b : Num) : Num :=
  match a, b with
  | .nan _, _ => .nan false
  | _, .nan _ => .nan false
  | .free k, _ => .free k
  | _, .free k => .free k
  | .inf _, _ => .inf false
  | _, .inf _ => .inf false
  | .fin _ m1 e1, .fin _ m2 e2 => if magLt m1 e1 m2 e2 then .fin false m2 e2 else .fin false m1 e1

def amaxAll (l : List Num) : Num := l.foldl amaxOf (.fin false 0 0)

/-- A magnitude in a floating-point format, rounded toward +Inf (R74, R76). -/
def encodeUp (k : FloatFmt) (v : Num) : Nat :=
  match v with
  | .nan _ => k.packNan false
  | .inf _ => k.packInf false
  | .free s => Config.draw s % 2 ^ (k.mbits + k.ebits)
  | .fin _ m e =>
    if m = 0 then 0
    else
      let q := k.quantum m e
      let t := roundCount .rtz m e q
      let n := if q ≤ e then t else if t * 2 ^ (q - e).toNat = m then t else t + 1
      if magLt k.maxFin.1 k.maxFin.2 n q then k.packInf false else k.pack false n q

def fp32 : FloatFmt := ⟨8, 23, 127, .ieee⟩

/-- The register after a fold: the largest value since software wrote it; NaN stays (R74). -/
def foldAmax (reg : BitVec 32) (v : Num) : BitVec 32 :=
  match decodeFloat fp32 reg.toNat with
  | .nan _ => reg
  | .fin true _ _ => BitVec.ofNat 32 (encodeUp fp32 v)
  | .inf true => BitVec.ofNat 32 (encodeUp fp32 v)
  | _ => let n := encodeUp fp32 v
         if reg.toNat < n then BitVec.ofNat 32 n else reg

/-! ## Combines (R134) -/

/-- An exact value as a multiple of 2^q, for q at most its power. -/
def numUnits (neg : Bool) (m : Nat) (e q : Int) : Int :=
  let n : Int := m * 2 ^ (e - q).toNat
  if neg then -n else n

/-- Sum of two values, rounded to nearest even in a 24-bit significand when `round` is set (R134). The signs that no rule gives are
free: of the zero that two values of unlike signs sum to, of a NaN of two NaNs, and the value of Inf − Inf (DESIGN CHOICE, log 35). -/
def addNum (round : Bool) (pick : Nat) (a b : Num) : Num :=
  match a, b with
  | .nan n, .nan k => if n = k then .nan n else .nan (decide (Config.draw pick % 2 = 1))
  | .nan n, _ => .nan n
  | _, .nan n => .nan n
  | .free k, _ => .free k
  | _, .free k => .free k
  | .inf n, .inf k => if n = k then .inf n else .free pick
  | .inf n, _ => .inf n
  | _, .inf n => .inf n
  | .fin n1 m1 e1, .fin n2 m2 e2 =>
    let q := min e1 e2
    let s := numUnits n1 m1 e1 q + numUnits n2 m2 e2 q
    if s = 0 then .fin (if n1 = n2 then n1 else decide (Config.draw pick % 2 = 1)) 0 q
    else
      let m := s.natAbs
      let q2 := if round then max q (numLog m q - 23) else q
      .fin (decide (s < 0)) (roundCount .rne m q q2) q2

/-- Signed comparison of exact values; −0 lies below +0 (R134). -/
def numLt (a b : Num) : Bool :=
  match a, b with
  | .inf true, .inf true => false
  | .inf true, _ => true
  | _, .inf true => false
  | .inf false, _ => false
  | _, .inf false => true
  | .fin n1 m1 e1, .fin n2 m2 e2 =>
    if m1 = 0 ∧ m2 = 0 then n1 && !n2
    else match n1, n2 with
      | true, true => magLt m2 e2 m1 e1
      | true, false => true
      | false, true => false
      | false, false => magLt m1 e1 m2 e2
  | _, _ => false

/-- The larger (or smaller) of two values; NaN wins (R134). -/
def maxNum (least : Bool) (pick : Nat) (a b : Num) : Num :=
  match a, b with
  | .nan n, .nan k => if n = k then .nan n else .nan (decide (Config.draw pick % 2 = 1))
  | .nan n, _ => .nan n
  | _, .nan n => .nan n
  | .free k, _ => .free k
  | _, .free k => .free k
  | a, b => if least then (if numLt b a then b else a) else (if numLt a b then b else a)

/-- COMBINE values (R133). -/
def combineAdd : Nat := 3
def combineMax : Nat := 4
def combineMin : Nat := 5

def listRemove {α : Type} : List α → Nat → List α
  | [], _ => []
  | _ :: t, 0 => t
  | h :: t, n + 1 => h :: listRemove t n

/-- The sum of all operands in an order the manual leaves open: each step joins two operands that the free values pick
(R134). With one or two operands there is nothing to pick. -/
def sumNums (round : Bool) : Nat → Nat → List Num → Num
  | _, _, [] => .fin false 0 0
  | _, _, [a] => a
  | _, seed, [a, b] => addNum round seed a b
  | 0, _, a :: _ => a
  | fuel + 1, seed, l =>
    let i := Config.draw seed % l.length
    let rest := listRemove l i
    let j := Config.draw (seed + 1) % rest.length
    sumNums round fuel (seed + 2) (addNum round (seed + 1) (l.getD i (.free seed)) (rest.getD j (.free seed)) :: listRemove rest j)

/-- Whether sums of the format are made in the converter's internal form. -/
def fmtFloat (f : Nat) : Bool := (floatFmt (fmtElem f)).isSome

/-- The combine of the operands of one element (R133, R134). -/
def combineNums (mode : Nat) (round : Bool) (seed : Nat) (l : List Num) : Num :=
  match l with
  | [] => .fin false 0 0
  | a :: t =>
    if mode = combineAdd then sumNums round l.length seed l
    else t.foldl (maxNum (decide (mode = combineMin)) seed) a

end Sys2Proof
end

