-- ==== Sys2Proof/Machine/Fec.lean ====
section
/-!
DEFINITION. The forward error correction of a fabric lane (R282): RS(544,514) over GF(2^10) as IEEE 802.3 gives it, which the spec names and
does not write out (PRESUMED, log 112). A symbol is a number below 1,024, a codeword its 544 symbols, the first sent first.
-/
namespace Sys2Proof

/-! ## The field -/

/-- Times α, a root of x^10 + x^3 + 1. -/
def gfDouble (a : Nat) : Nat := if 512 ≤ a then (2 * a) ^^^ 0x409 else 2 * a

def gfMulFrom : Nat → Nat → Nat → Nat
  | 0, _, _ => 0
  | n + 1, a, b => (if b % 2 = 1 then a else 0) ^^^ gfMulFrom n (gfDouble a) (b / 2)

def gfMul (a b : Nat) : Nat := gfMulFrom 10 a b

/-- The power α^n. -/
def gfExp : Nat → Nat
  | 0 => 1
  | n + 1 => gfDouble (gfExp n)

/-- The inverse a^1022, by nine squarings. -/
def gfInv (a : Nat) : Nat :=
  ((List.range 9).foldl (fun (x : Nat × Nat) _ => let q := gfMul x.1 x.1; (q, gfMul x.2 q)) (a, 1)).2

/-- Sum of two polynomials, lowest coefficient first. -/
def gfAdd : List Nat → List Nat → List Nat
  | [], q => q
  | p, [] => p
  | a :: p, b :: q => (a ^^^ b) :: gfAdd p q

/-- Value of a polynomial, lowest coefficient first. -/
def gfEval (p : List Nat) (x : Nat) : Nat := p.foldr (fun a v => a ^^^ gfMul v x) 0

/-- Product of two polynomials, lowest coefficient first. -/
def gfTimes (p q : List Nat) : List Nat := p.foldr (fun a v => gfAdd (q.map (gfMul a)) (0 :: v)) []

/-! ## Codewords -/

/-- The generator: the product of x + α^j for j from 0 to 29, highest coefficient first. -/
def rsGenerator : List Nat := ((List.range 30).foldl (fun p j => gfTimes p [gfExp j, 1]) [1]).reverse

/-- One symbol into the remainder, which is kept highest coefficient first. -/
def rsDivide (g r : List Nat) (x : Nat) : List Nat :=
  let q := x ^^^ r.headD 0
  List.zipWith (fun a b => a ^^^ gfMul q b) (r.drop 1 ++ [0]) (g.drop 1)

/-- A codeword: the 514 symbols of a message, and the 30 of its parity. -/
def rsEncode (m : List Nat) : List Nat := m ++ m.foldl (rsDivide rsGenerator) (List.replicate 30 0)

/-- Twenty 257-bit blocks make the 514 symbols of a codeword, bit 0 first. -/
def fecSymbols (blocks : List Nat) : List Nat :=
  let v := blocks.foldr (fun b v => b + 2 ^ 257 * v) 0
  (List.range 514).map (fun k => v / 2 ^ (10 * k) % 1024)

/-- The blocks of a codeword. -/
def fecBlocks (word : List Nat) : List Nat :=
  let v := (word.take 514).foldr (fun x v => x + 1024 * v) 0
  (List.range 20).map (fun k => v / 2 ^ (257 * k) % 2 ^ 257)

/-- Syndromes: the word's values at α^0 to α^29. -/
def rsSyndromes (word : List Nat) : List Nat :=
  (List.range 30).map (fun j => let a := gfExp j; word.foldl (fun v x => gfMul v a ^^^ x) 0)

/-! ## Correction of up to 15 symbols -/

/-- The shortest recurrence that gives the syndromes so far: its polynomial, its length, the polynomial and the discrepancy it had before
its last lengthening, and the steps since. -/
structure Locator where
  poly : List Nat
  length : Nat
  last : List Nat
  scale : Nat
  gap : Nat
deriving DecidableEq, Repr

def Locator.step (syn : List Nat) (k : Locator) (n : Nat) : Locator :=
  let d := (List.range (k.length + 1)).foldl (fun v i => if i ≤ n then v ^^^ gfMul (k.poly.getD i 0) (syn.getD (n - i) 0) else v) 0
  if d = 0 then { k with gap := k.gap + 1 }
  else
    let p := gfAdd k.poly (List.replicate k.gap 0 ++ k.last.map (gfMul (gfMul d (gfInv k.scale))))
    if 2 * k.length ≤ n then ⟨p, n + 1 - k.length, k.poly, d, 1⟩ else { k with poly := p, gap := k.gap + 1 }

/-- The error locator of a word. -/
def rsLocator (syn : List Nat) : Locator := (List.range 30).foldl (Locator.step syn) ⟨[1], 0, [1], 1, 1⟩

/-- The odd coefficients of a polynomial: its derivative. -/
def gfDerive : List Nat → List Nat
  | _ :: a :: p => a :: 0 :: gfDerive p
  | _ => []

/-- The error in the symbol of degree `i`, by the locator's roots; 0 where there is none. -/
def rsErrorAt (syn : List Nat) (k : Locator) (i : Nat) : Nat :=
  let x := gfExp i
  let y := gfInv x
  if gfEval k.poly y = 0 then
    gfMul x (gfMul (gfEval ((gfTimes syn k.poly).take 30) y) (gfInv (gfEval (gfDerive k.poly) y)))
  else 0

/-- The codeword within 15 symbols of a word, if there is one. -/
def rsCorrect (word : List Nat) : Option (List Nat) :=
  let syn := rsSyndromes word
  if syn.all (· == 0) then some word
  else
    let k := rsLocator syn
    let fixed := (List.range 544).map (fun j => word.getD j 0 ^^^ rsErrorAt syn k (543 - j))
    let changed := ((List.range 544).filter (fun j => decide (fixed.getD j 0 ≠ word.getD j 0))).length
    if k.length ≤ 15 ∧ changed ≤ 15 ∧ word.length = 544 ∧ (rsSyndromes fixed).all (· == 0) then some fixed else none

/-- No codeword lies within 15 symbols. -/
def rsUncorrectable (word : List Nat) : Bool := (rsCorrect word).isNone

end Sys2Proof
end

