-- ==== Sys2Proof/Machine/State.lean ====
section
/-!
DEFINITION. The state of the unit as plain data, and the machine right after reset. Every register the manual names is
here, each in one home; INVENTORY.md lists them with their rules and reset values.
-/
namespace Sys2Proof.Machine

/-- Reasons for which the model stops. -/
inductive Fault where
  /-- Raised by IMAGE_DATA_RECEIVE, STACK_RETIRE and a REGISTER_WRITE of XBAR_STACK_CMD when they must read a stack-local
  address at or above the capacity the controller presented (R261 requires requests below it): the address does not exist.
  Safe: the unit's rules give no effect for such a request. -/
  | stackAddressAbsent (stack addr : Nat)
deriving DecidableEq, Repr

/-- Reasons for which the model gives no meaning. -/
inductive Refusal where
  /-- Raised by `exec` alone, for a command that has no meaning yet. Safe: nothing is claimed of it. -/
  | notModelled (mnemonic : String)
deriving DecidableEq, Repr

/-- The two builds (R1, R3). -/
inductive Build where
  | t12 | t4
deriving DecidableEq, Repr

/-- What the part's fuses hold (R13, R318, R340, R349, R386, R392, R395, R416). -/
structure Fuses where
  rev : BitVec 8
  trim : BitVec 16
  uid : Word
  revoked : BitVec 4
  primary : BitVec 24
  golden : BitVec 24
  manufacturer : BitVec 11
  keys : List (Nat × Nat × Nat)     -- key number, affine x, affine y
deriving DecidableEq, Repr

/-! ## Recipes -/

/-- A tensor descriptor (R27). -/
structure TDesc where
  window : Nat
  offset : Nat
  mxaxis : Nat
  fmt : BitVec 8
  space : Nat
  rank : Nat
  ext : List Nat
  stride : List Int
deriving DecidableEq, Repr

/-- A STREAM record (R212). -/
structure SDesc where
  layer : BitVec 16
  tag0 : BitVec 16
  depth : Nat
  steer : Nat
  selq : Nat
  rate : Nat
  rsize : Nat
  rbase : Nat
deriving DecidableEq, Repr

/-- A window-table entry (R43). -/
structure WinEntry where
  base0 : Nat
  base1 : Nat
  stks : BitVec 12
  limit : Nat
  valid : Bool
  aside : Bool
  remote : Bool
  fetch : Bool
  write : Bool
  read : Bool
  resident : Bool
  gen : BitVec 32
deriving DecidableEq, Repr

/-- The details of a fault, as the record of R401 holds them. -/
structure FaultRec where
  code : Nat
  stage : Nat
  step : Nat := 0
  slot : Option Nat := none
  dim : Option Nat := none
  pos : Option Nat := none
  raw : Option Int := none
  cell : Option Nat := none
  port : Option Nat := none
  err : Bool := false
  node : Option Nat := none
  resumable : Bool := false
  win : Option Nat := none   -- window whose RESIDENCY it is (R279); not in the record
deriving DecidableEq, Repr

/-- Where the instruction at HEAD stands (R192, R420). -/
inductive Phase where
  | ready        -- decoded and validated; cell setup and data movement follow
  | moving       -- an index instruction between two of its phases (R142)
  | moved        -- data movement done; retirement waits for the stack ports
  | waiting      -- SWAIT, FENCE, SBLOCK on a full queue, GEN with FAB = 1, COMMIT of a fabric-wide generation
  | flipping     -- COMMIT between steps 1 and 4 of R242
deriving DecidableEq, Repr

/-- An instruction the unit has decoded, with the copies it keeps (R160). -/
structure Cur where
  n : BitVec 32
  word : BitVec 128
  table : List Word
  descs : List (Nat × TDesc)
  stream : Option SDesc
  fault : Option FaultRec
  phase : Phase
  step : Nat                 -- phase number of an index instruction, or number of a barrier reached
  steps : Nat                -- barriers this instruction passes
  pos : List Nat             -- saved position
  halted : Bool
  recheck : Bool             -- a synchronisation ended since validation (R160)
  pins : List (Nat × BitVec 32)  -- windows read and the GEN taken (R252)
  recs : Option (List (Nat × Nat))  -- SCATTER past its route phase: the records in scratch, slot and position (R136)
deriving DecidableEq, Repr

/-! ## Contexts -/

/-- R182. -/
inductive RunState where
  | stopped | idle | running | waiting
deriving DecidableEq, Repr

structure CtxRun where
  st : RunState
  cause : BitVec 3
  haltCode : BitVec 16
  fcode : BitVec 8
  dbReject : Bool
  semReject : Bool
  resumable : Bool
  stopReq : Bool
  resWin : Option Nat        -- window whose RESIDENCY stopped the context (R279)
  hostSince : Bool           -- a host STOP or abort has come since (R279)
  head : BitVec 32
  tail : BitVec 32
  quantumOver : Bool
  pendFault : Option FaultRec -- a delivery fault that takes effect at the next boundary (R239)
deriving DecidableEq, Repr

structure CtxCfg where
  rcpBase : Word
  rcpSize : BitVec 5
  winTab : Word
  save : Word
  sched : Word
  waitBound : BitVec 32
  srSeed : Word
  binds : Tab Word
  follow : Tab Word
deriving DecidableEq, Repr

structure CtxWin where
  busy : Bool
  all : Bool
  window : BitVec 10
  since : Nat                -- number of the first request issued after the synchronisation began (R48)
  cache : Tab (Option WinEntry)
deriving DecidableEq, Repr

/-- A waiter of a semaphore counter (R196), kept by the context that owns the counter. -/
structure Waiter where
  ctx : Nat
  pair : Nat
  half : Bool
  count : Nat
deriving DecidableEq, Repr

structure CtxSem where
  filled : Tab (BitVec 32)
  free : Tab (BitVec 32)
  waiters : List Waiter
deriving DecidableEq, Repr

/-- Between which steps of R242 a flip is. -/
inductive Flip where
  | none | begun | point
deriving DecidableEq, Repr

/-- A member's side of a fabric-wide generation (R307, R308). -/
inductive Member where
  | idle | joining | open_ | voted | committed | aborted
deriving DecidableEq, Repr

structure CtxGen where
  seq : BitVec 32
  isOpen : Bool
  fab : Bool
  flip : Flip
  noReplay : Bool            -- CTX_GEN.UNSAFE
  last : BitVec 2
  writeSet : List Nat
  result : BitVec 3
  abortBit : Bool
  replayBit : Bool
  replayHead : BitVec 32
  fgen : BitVec 32
  newGen : Tab (Option (BitVec 32))  -- GENs advanced by a flip whose table write has not been accepted (R242 step 4)
  lastFgen : BitVec 32       -- last committed fabric generation of the group, from GEN_OPEN
  winFgen : Tab (BitVec 32)  -- last committed fabric generation of each window
  member : Member
  tblRetry : List Nat        -- windows whose table write of R242 step 4 failed and waits for RESP_TIMEOUT
  replaying : Bool           -- REPLAY's save-area writes are not all done (R256)
  saveRetry : Bool           -- one of them failed and waits for RESP_TIMEOUT
  stale : Bool               -- a generation whose join timed out has not been decided (R308)
  staleOpen : Option (BitVec 32) -- FGEN of its GEN_OPEN, if that has come
  asked : List (BitVec 20)   -- nodes that have not answered its inquiry (R311)
  abortAt : Option (BitVec 32)   -- the instruction at which the context was STOPPED when the abort decision came (R307)
deriving DecidableEq, Repr

structure CtxFlt where
  f0 : Word
  f1 : Word
  f2 : Word
  f3 : Word
  stream : Word
deriving DecidableEq, Repr

/-- A window record (R243). -/
inductive RecState where
  | clean | dirty | lag
deriving DecidableEq, Repr

structure WinRec where
  st : RecState
  all : Bool
  ivs : List (Nat × Nat)     -- start stripe, stripes
  gen : BitVec 32            -- GEN at which the aside region is written
  paused : Bool
  retry : Bool               -- a copy request failed and waits for RESP_TIMEOUT (R264)
deriving DecidableEq, Repr

structure Ctx where
  run : CtxRun
  cfg : CtxCfg
  win : CtxWin
  sems : CtxSem
  gen : CtxGen
  flt : CtxFlt
  irq : BitVec 4
  cvtFlags : BitVec 5
  amax : BitVec 32
  perfInstr : Word
  perfBytes : Word
  perfSetup : Word
  fetched : List (BitVec 32 × BitVec 128)
  cur : List Cur             -- decoded instructions, the one at HEAD first (R189, R190)
  recs : Tab WinRec
  spilled : List Nat         -- cells whose record lies in the save area
deriving DecidableEq, Repr

/-! ## Cells and streams -/

/-- R82. -/
inductive TileState where
  | empty | valid | partly
deriving DecidableEq, Repr

structure TileRec where
  st : TileState
  cursor : Nat
  wm1 : Nat
  rowsm1 : Nat
deriving DecidableEq, Repr

/-- R209. -/
inductive QState where
  | closed | opened | halted | closing | faulted
deriving DecidableEq, Repr

/-- A block appended to a queue, this cell's part (R214, R215). -/
structure Block where
  id : Nat                   -- block number of the appending SBLOCK in its context
  n : BitVec 32              -- recipe position of the instruction that appended it
  desc : TDesc
  sdesc : Option TDesc
  rank : Nat                 -- rank of the cell in the SBLOCK
  cells : Nat
  round : Nat
  sat : Bool
  amacc : Bool
  afmt : BitVec 8
  tokens : Nat
  fetched : Nat              -- tokens fetched into the ring, or received (DIR = 1)
  done : Nat                 -- tokens delivered, dropped, or written
  fromCarousel : Bool
  got : List (List Byte)     -- DIR = 1: tokens kept until their elements are whole, or the whole block is there
  seed : Word                -- CTX_SR_SEED at the SBLOCK (R72)
  brought : Tab (List Byte)  -- tokens that another cell of the slice has read for this one, by number (R214)
  kept : List (Bool × List Nat × Nat)  -- broadcast data read once: scale or not, index, bits (R35)
deriving DecidableEq, Repr

structure Carousel where
  step : Nat
  left : Nat                 -- rotations left; 0 with endless = true: until SCLOSE
  endless : Bool
  desc : TDesc
  sdesc : Option TDesc
  swapped : Bool             -- the region and its shadow have swapped (R231)
  cells : Nat                -- engaged cells
  id : Nat                   -- block id of the delivery in progress
deriving DecidableEq, Repr

structure Queue where
  st : QState
  owner : Nat
  dir : Bool
  sem : Nat
  limit : Nat                -- OUTM1 + 1
  sd : SDesc
  blocks : List Block
  staged : List (List Byte)  -- ring: tokens fetched and not yet sent, or received and not yet written
  nextTag : BitVec 16
  credits : Nat
  blockNo : Nat
  closeRec : Bool            -- a close recorded while HALTED (R210)
  haltWin : Option Nat
  measured : Nat
  counted : Nat
  history : Bool
  reads : List Nat           -- tags of its outstanding fetches: token numbers
  carousel : Option Carousel
deriving DecidableEq, Repr

structure Chan where
  held : Nat                 -- tokens at the edge tile (R223)
  granted : Nat              -- DIR = 1 credits granted under the stream that is open
  stale : Nat                -- DIR = 1 credits outstanding from a closed stream (R223)
  ctl : List CtlToken        -- control tokens waiting at the steering unit (R233)
  dataWait : Nat             -- data tokens waiting there
deriving DecidableEq, Repr

/-- A line of the Crumb cache: one tile row (R95). -/
structure CrumbLine where
  tile : Nat
  row : Nat
  width : Nat
  data : List Byte
deriving DecidableEq, Repr

/-- What a reuse latch holds: the last vector its engine read, with its tag (R94). -/
structure Latch where
  tile : Nat
  column : Bool
  index : Nat
  rows : Nat
  width : Nat
  data : List Byte
deriving DecidableEq, Repr

/-- The random generator of one context in one cell (R72): what it was seeded with, and how many numbers it has given. -/
structure SrGen where
  seed : Word
  pos : BitVec 32
  drawn : Nat
deriving DecidableEq, Repr

structure Cell where
  owner : Option Nat
  mem : Mem
  opFile : Mem               -- T4: tiles 0 to 7 (R79)
  crumb : List CrumbLine     -- T12: most recently used first (R95)
  latches : Tab (Option Latch) -- by engine: 0 transposer, 1 converter (R94)
  gens : Tab SrGen           -- by context (R72)
  tiles : Tab TileRec
  queues : Tab Queue
  chans : Tab Chan
  lastTx : Option Token
  lastCro : List (BitVec 4 × BitVec 4)  -- the credit items of the last grant, in order (R407)
  lastMark : Option (BitVec 4)
deriving DecidableEq, Repr

/-- R369: spare k. -/
structure Spare where
  st : BitVec 2
  pos : BitVec 6
deriving DecidableEq, Repr

structure Slice where
  pairTimeout : BitVec 16
  fenced : BitVec 64
  lost : BitVec 64           -- positions whose serving spare has been fenced, until another cell serves them (R372)
  spares : List Spare
  svcCell : BitVec 6
  svcSpare : BitVec 2
  svcOp : BitVec 3
  svcResult : BitVec 4
  svcGo : Bool
  eccCorr : Word
  lattice : BitVec 64
  held : Bool
  broke : Option (BitVec 64 × List Spare × BitVec 64) -- fenced, spares and lost as they were before the region broke (R352)
deriving DecidableEq, Repr

/-! ## Stack ports -/

/-- A frame and the port it came in by; none: from this node itself. -/
structure Arrival where
  port : Option Nat
  frame : Frame
  done : Nat                 -- elements of a combining WRITE that earlier locked sequences have folded in (R273)
deriving DecidableEq, Repr

/-- Who made a stack request (R264). -/
inductive Requester where
  | instr (c : Nat)
  | stream (g q tok : Nat)
  | streamWrite (g q tok : Nat)
  | catchup (c w : Nat)
  | tableWrite (c w : Nat)
  | save (c : Nat)           -- CTXSAVE
  | switchOut (c : Nat)      -- spilling and restoring of cells (R257)
  | replaySave (c : Nat)
  | migration
  | image
  | fetch (c : Nat) (n : BitVec 32) (stage step : Nat)  -- the descriptor fetcher or the owner-table walker, for instruction n
  | remote (c w : Nat)       -- a WRITE or READ_REQ of another node in window w of context c
  | table                    -- the owner-table walker outside an instruction, and its updates (R299, R300)
  | plan                     -- a migration plan and the tables it changes (R276, R277)
  | taster                   -- a Taster record (R376)
  | retain                   -- retained copies and firmware slots (R351, R355)
  | resolve (a : Arrival)    -- the owner-table walker, for a request of another node (R300)
  | combine (m : Nat)        -- the read of the locked sequence that fabric master m holds (R273, R305)
deriving DecidableEq, Repr

/-- One piece of a stack request (R262, R267). -/
structure Req where
  write : Bool
  tag : Option Nat           -- none until the port offers it to the controller (R263)
  addr : Nat                 -- byte address of its first granule
  len : Nat                  -- granules
  mask : BitVec 512          -- bit b: byte b of the lane; all bytes of a read's granules
  data : List Byte           -- DATA of a write, or of the response to a read, from the start of the lane
  by_ : Requester
  master : Nat               -- Crossway master port (R265)
  num : Nat                  -- number of the request whose piece this is
  id : Option Nat            -- none while the request waits at its master for an ID (R272)
  urgency : Option Nat       -- of a stream request (R225)
  window : Option (Nat × Nat) -- context and window whose entry translated it (R48)
  aged : Bool                -- it has waited XBAR_CFG.AGE cycles (R268)
  ackTo : Option Frame       -- the answer to send when it is complete: a WRITE_ACK or a READ_RESP
  group : Option (Nat × Nat × Nat)  -- cell, queue or 16 + context, and block whose reads take one ID (R272)
deriving DecidableEq, Repr

/-- A Crossway target, and behind targets 0 to 11 the stack port (R265). -/
structure StackPort where
  wait : List Req            -- pieces that Crossway has not granted, in order of arrival (R268)
  reqs : List Req            -- pieces in the port, in the order of their grants
  late : List Req            -- timed out; the response has not come (R264)
  lastR : Nat                -- master granted last, reads
  lastW : Nat                -- master granted last, writes
  rdata : List Byte          -- DATA of the last read response
deriving DecidableEq, Repr

/-- A Ledger update that waits or is being made (R299). -/
structure LedgerReq where
  entry : Nat
  word : Word
  fromCmd : Bool
  answer : Option Arrival
deriving DecidableEq, Repr

/-- What a locked sequence serves (R273). -/
inductive LockJob where
  | ledger (r : LedgerReq)
  | combine (w : Arrival)
  -- losing copies of 64 B lines, for an instruction of a context or a request of another node (R300)
  | rewrite (lines : List Nat) (who : Option (Nat × BitVec 32)) (req : Option Arrival)
deriving DecidableEq, Repr

/-- A locked sequence between its grant and its closing piece; its writes are held back until then. -/
structure Lock where
  master : Nat
  target : Nat               -- the one stack port it names (R273)
  job : LockJob
deriving DecidableEq, Repr

/-- One entry of a migration plan (R276). -/
structure PlanEntry where
  base0 : Nat
  base1 : Nat
  stks : BitVec 12
  ctx : Nat
  window : Nat
deriving DecidableEq, Repr

structure Migration where
  stack : Nat
  plan : List PlanEntry
  entry : Nat
  since : Nat                -- number of the first request issued after the entry's window was synchronised (R277 step 1)
deriving DecidableEq, Repr

structure Xb where
  cfg : Word
  lockCount : BitVec 32
  lockTarget : BitVec 6
  lockMaster : BitVec 5
  lockValid : Bool
  stackState : Tab (BitVec 4)
  cmd : Word                 -- PSTACK, PADDR, STACK, PRIO, AUTORUN, OP
  go : Bool
  count : BitVec 16
  done : BitVec 16
  entry : BitVec 16
  result : BitVec 3
  errs : Tab Word
  prio : Tab Word
  ports : Tab StackPort      -- by Crossway target, 0 to 39 (R265)
  nextNum : Nat              -- number of the next request
  turn : Tab Bool            -- by slice master port: its last grant was a stream request (R269)
  held : List (Nat × Req × Bool) -- responses that Crossway holds: stack port, piece, ERR (R272)
  locks : List Lock
  mig : Option Migration
  joinWait : List (Nat × Nat)  -- JOINING stack, context whose generation it waits for (R280)
deriving DecidableEq, Repr

/-! ## Fabric -/

/-- The forward error correction of one lane: the blocks that wait for a codeword to be full, and the last codeword sent (R282). -/
structure LaneFec where
  waiting : List Nat
  word : List Nat
deriving DecidableEq, Repr

def LaneFec.empty : LaneFec := ⟨[], []⟩

structure Port where
  active : BitVec 8
  retire : BitVec 8
  st : BitVec 4
  uncorr : BitVec 16
  vcbuf : BitVec 8
  restart : Bool
  enable : Bool
  laneErr : Word
  nbr : Word
  nbrInfo : Word
  ready : BitVec 8           -- lanes whose LREADY is 1 (R409)
  txSeq : BitVec 16
  rxSeq : BitVec 16          -- next SEQ expected
  acked : BitVec 16          -- highest SEQ the other end has acknowledged
  txq : List Frame           -- frames waiting for credit or replay space
  replay : List Frame
  replays : Nat              -- consecutive replays without an advance of ACK
  nakSent : Bool
  unacked : Nat              -- frames accepted since the last ACK was sent
  credit : List Nat          -- per VC, in 64 B units, from the other end
  rxUsed : List Nat          -- per VC, receive buffer occupied, in 64 B units
  paused : Bool              -- a lane-map exchange is in progress (R287)
  holdLanes : Bool           -- it waits for LINK to reach its floor (R325)
  sent : List Byte           -- the last frame sent, byte 0 first (R283)
  blocks : List (Nat × Bool × List Byte)  -- its PCS blocks: lane, header marks a frame's start, data (R282)
  turn : Nat                 -- place among the active lanes of the next block
  fec : Tab LaneFec          -- by lane
  again : List Frame         -- DATA frames that the last replay sent again (R286, R287)
deriving DecidableEq, Repr

/-- A request that awaits its response (R292). -/
structure Txn where
  txn : BitVec 16
  frame : Frame
  ctx : Nat
  write : Bool
  retries : Nat
  resident : Bool            -- answered RESIDENCY; sent again every 10 us
  replica : Bool             -- the read has gone to the replica (R301)
  block : Nat                -- block size of the reference
  home : Option (Nat × Nat × Nat)  -- CTX, WINDOW and SLOT of the entry as the requester resolved it (R303)
  dest : List (Nat × Nat)    -- destination element, and the bit of the answer where it begins
deriving DecidableEq, Repr

/-- A coordinated group (R306, R307). -/
structure Coord where
  gid : BitVec 16
  members : Nat
  joins : List (Nat × Nat)   -- node address, context
  votes : List (Nat × Nat)
  fgen : BitVec 32
  lastCommitted : BitVec 32
  forming : Bool
  decided : Option Bool
deriving DecidableEq, Repr

structure Fab where
  cfg : Word
  addrValid : Bool
  root : Bool
  addr : BitVec 20
  rootAddr : BitVec 20
  ledger : Word
  ledgerSet : Word
  ledgerEntry : BitVec 24
  ledgerResult : BitVec 2
  ledgerGo : Bool
  ports : Tab Port
  grp : Tab Word
  route : Tab Word
  txns : List Txn
  nextTxn : BitVec 16
  waiting : List Txn         -- requests that wait for a transaction number
  heldWrites : List Arrival
  resolving : List Arrival           -- requests whose entry has a losing copy to rewrite first (R300)
  loop : List Frame
  coord : List Coord
  ledgerQ : List LedgerReq
  ownerCache : List (Nat × Nat)      -- slice, entry; oldest first
  ledgerBad : List (Nat × Nat)       -- stack, address of 64 B of a Ledger copy whose last read ended in ERR (R260)
  discards : Nat
  mgmtResp : Option Frame            -- last management response that reached this node
deriving DecidableEq, Repr

/-! ## Clocks, configuration, global -/

structure Clk where
  pllStop : Bool             -- CLK_STATUS.PLL_STOP
  pllDown : Bool             -- the PLL has stopped since the last unit reset (R322)
  coastEv : Bool
  coast : Bool
  coastAge : Nat             -- time since the loop opened, up to 1 us, in units of 2^-32 ns (R320)
  proofed : Bool
  refOk : Bool
  oscOk : Bool
  pllLock : Bool
  hist : List (BitVec 4)     -- TCLK, OSC, PLL: edges in the last four 25 ns intervals (R319)
  trim : BitVec 16
  err : BitVec 8
  trimSrc : BitVec 2
  firstDone : Bool           -- step 2 of R318 done
  proofAge : Nat             -- 250 us windows since the oscillator was proofed, up to 40 (R318)
  inBand : Nat               -- consecutive 250 us windows within 200 ppm of the second clock
  refBand : Nat              -- the same of REFCLK, while it is not accepted
  driftBand : Nat            -- windows within 0.6 % but not 200 ppm (R317)
  oscRuns : Bool
  discard : Bool             -- the window in progress is not used for proofing (R318)
  sel : BitVec 32
  islReset : BitVec 16
  hung : BitVec 16
  switching : List (Nat × Option Nat)  -- island, and the old source; none for a reset-switch
  linkReq : BitVec 2
  stwReq : BitVec 2
  linkCur : BitVec 2
  stwCur : BitVec 2
  linkTo : Option (BitVec 2)
  linkAge : Nat              -- time since a transition began, in units of 2^-32 ns (R326)
  stwTo : Option (BitVec 2)
  stwAge : Nat
  thrTime : BitVec 32
  duty : BitVec 4
  throttled : Bool
  pwResult : BitVec 3
  pwState : BitVec 3
  autoIdle : Bool
  parkBit : Bool
  unparkBit : Bool
  gated : BitVec 12
deriving DecidableEq, Repr

structure Time where
  now : Word                 -- 48.16 ns
  sub : BitVec 16            -- the 2^-32 ns remainder
  inc : Nat                  -- increment of the last CONTROL cycle, before its correction, in units of 2^-32 ns
  adj : Int                  -- correction of the increment by the time discipline, in units of 2^-32 ns
  cfg : Word
  syncRej : BitVec 16
  stepped : Bool
  holdover : Bool
  valid : Bool
  validNext : Bool           -- VALID returns in the next control cycle (R331)
  offset : BitVec 32
  syncIn : Word
  armed : Bool
  locks : Nat                -- consecutive TIME frames within 50 ns
  first : Bool               -- the next TIME frame is the first since VALID cleared
  portDelay : Tab (BitVec 32)
  syncDue : Bool             -- TIME_NOW has crossed a multiple of SYNC_OUT_PERIOD, and the pulse is to be driven (R332)
  syncOut : Nat              -- SYNC_OUT pulses driven
deriving DecidableEq, Repr

structure Beat where
  cfg : Word
  count : Word
  lastStretch : BitVec 20
  lateLink : BitVec 10
  lateChan : BitVec 4
  layer : BitVec 16
  fill : Bool
  held : Bool
  mark : Bool                -- the next edge carries the layer mark
  lastMark : Bool            -- the last edge issued carried it
  notReady : List (Nat × BitVec 16)
deriving DecidableEq, Repr

/-- An image header (R340). -/
structure ImgHdr where
  target : Word
  region : BitVec 8
  frames : Nat
  length : Nat
  gen : BitVec 32
  keysel : Nat
  digest : List Byte
  sigR : Nat
  sigS : Nat
deriving DecidableEq, Repr

structure Img where
  bytes : List Byte          -- header and frames as received
  hdr : Option ImgHdr
  seen : List Nat            -- frame indices, in image order
  revoke : BitVec 4          -- CFG_KEYS.REVOKE as the header was completed (R392)
deriving DecidableEq, Repr

/-- An activation in progress (R346), or the re-imaging of a service command (R371). -/
structure Act where
  region : Nat
  purge : Bool
  onExpire : Bool
  service : Bool
  fromLoad : Bool
deriving DecidableEq, Repr

structure Region where
  gen : BitVec 32
  upsets : BitVec 16
  source : BitVec 4
  broken : Bool
  slot : Bool
  epoch : BitVec 4
  frames : List (Nat × List Byte)  -- active frames that are not the built-in default
  upset : List Nat                 -- active frames whose content is upset
  mending : List Nat               -- those of them that a use has found; the scrubber rewrites them first (R365)
deriving DecidableEq, Repr

/-- The RV32IMC state of one Steward, its 512 KiB memory among it: the payloads loaded, by frame of 4,088 B; any other frame holds the
ROM's (R339, R341, R353). -/
structure Steward where
  pc : BitVec 32
  regs : Tab (BitVec 32)
  mem : Tab (List Byte)
deriving DecidableEq, Repr

structure Cfg where
  load : Word                -- STACK, ADDR, ON_EXPIRE, MODE, ACTNOW, SRC
  go : Bool
  activate : Bool
  lsRegion : BitVec 8
  lsFrame : BitVec 24
  purged : BitVec 16
  cause : BitVec 4
  result : BitVec 4
  st : BitVec 3
  timing : Word
  bootResult : BitVec 2
  bootBusy : Bool
  bootAlt : Bool             -- the primary bundle has stalled: the golden one is read (R349)
  retain : Word
  fwValid : Bool
  fwLock : Bool
  fwStack : BitVec 4
  fwBase : BitVec 48
  handoverAck : Bool
  fwRestart : Bool
  upCount : BitVec 16
  upRegion : BitVec 8
  upFrame : BitVec 24
  upBad : Bool
  upValid : Bool
  revoke : BitVec 4
  keysLock : Bool
  regions : Tab Region
  img : Img
  act : Option Act
  swap : Option Nat          -- firmware kind whose handover or reload is in progress (13, 14; 15 both)
  wdogResets : Nat
  romHold : Bool
  request : Option (Nat × Nat)   -- CFGP_REQ of the configuration port: ADDR, LEN (R412)
  stws : Tab Steward         -- global, then by slice (R353)
deriving DecidableEq, Repr

structure Glb where
  fault : Word
  msiAddr : Word
  msiData : Word
  irq : BitVec 4
  badAcc : Bool
  tasterCfg : Word
  tSample : BitVec 32
  tNext : BitVec 16
  tDropped : Bool
  tSkipped : Bool            -- the same since the last record (R377)
  tNoHistory : Bool
  tBeats : Word
  tHeld : Word
  beatHeld : Word
  msiQ : List (Word × BitVec 32)
  owed : List Nat
deriving DecidableEq, Repr

structure Pwr where
  step : Nat
  caps : List (BitVec 8)
  ctrlOk : BitVec 12
  bootPin : Bool
deriving DecidableEq, Repr

/-- What an access through the instrument network reaches (R417): the network alone, the self-test of a physical cell and how it ends, or
another instrument. -/
inductive Instrument where
  | network
  | cellTest (slice : Fin 12) (cell : Fin 68) (pass : Bool)
  | fuses
  | clocks
  | loopback (p : Fin 18) (lane : Fin 8)
  | fifos
deriving DecidableEq, Repr

/-- What a test instrument shows (R417). -/
inductive TestReading where
  | busy                     -- a cell in service
  | cell (pass : Bool)
  | fuses (f : Fuses)
  | clocks (tclk osc pll : Bool)
  | loopback (blocks : Option (List Nat))
  | fifos (held : Nat)
deriving DecidableEq, Repr

/-- Test access port (R416). -/
structure Tap where
  ir : BitVec 6
  pinsHeld : Bool            -- EXTEST or CLAMP has taken the pins out of functional use
  preloaded : Bool
  bypass : Bool              -- the one-bit bypass register
  boundary : Nat             -- the boundary register, as a number
  reading : Option TestReading  -- what the instrument last reached behind IJTAG_ACCESS shows
deriving DecidableEq, Repr

structure State where
  build : Build
  fuses : Fuses
  pwr : Pwr
  glb : Glb
  clk : Clk
  time : Time
  beat : Beat
  cfg : Cfg
  xb : Xb
  fab : Fab
  slices : Tab Slice
  cells : Tab Cell
  ctxs : Tab Ctx
  stks : Tab Mem
  tap : Tap
  free : Nat
  pending : List Instr
deriving DecidableEq, Repr

/-! ## Reset values -/

def Ctx.reset : Ctx where
  run := ⟨.stopped, 0, 0, 0, false, false, false, false, none, false, 0, 0, false, none⟩
  cfg := ⟨0, 2, 0, 0, 0x000003E800000000, 0x000F423F, 0, [], []⟩
  win := ⟨false, false, 0, 0, []⟩
  sems := ⟨[], [], []⟩
  gen := ⟨0, false, false, .none, false, 0, [], 0, false, false, 0, 0, [], 0, [], .idle, [], false, false, false, none, [], none⟩
  flt := ⟨0, 0, 0, 0, 0⟩
  irq := 3
  cvtFlags := 0
  amax := 0
  perfInstr := 0
  perfBytes := 0
  perfSetup := 0
  fetched := []
  cur := []
  recs := []
  spilled := []

def TileRec.empty : TileRec := ⟨.empty, 0, 0, 0⟩

def WinRec.clean : WinRec := ⟨.clean, false, [], 0, false, false⟩

def SDesc.none : SDesc := ⟨0, 0, 1, 0, 0, 1, 0, 0⟩

def Queue.closed : Queue :=
  ⟨.closed, 0, false, 0, 1, SDesc.none, [], [], 0, 0, 0, false, Option.none, 0, 0, false, [], Option.none⟩

def Chan.idle : Chan := ⟨0, 0, 0, [], 0⟩

def SrGen.idle : SrGen := ⟨0, 0, 0⟩

def Cell.reset : Cell := ⟨none, Mem.blank, Mem.blank, [], [], [], [], [], [], none, [], none⟩

def Slice.reset : Slice where
  pairTimeout := 0x1000
  fenced := 0
  lost := 0
  spares := [⟨0, 0⟩, ⟨0, 0⟩, ⟨0, 0⟩, ⟨0, 0⟩]
  svcCell := 0
  svcSpare := 0
  svcOp := 0
  svcResult := 0
  svcGo := false
  eccCorr := 0
  lattice := 1
  held := false
  broke := none

def Steward.reset : Steward := ⟨0, [], []⟩

def StackPort.idle : StackPort := ⟨[], [], [], 0, 0, []⟩

def Region.default : Region := ⟨0, 0, 0, false, false, 0, [], [], []⟩

def Port.reset : Port where
  active := 0
  retire := 0
  st := 1
  uncorr := 0
  vcbuf := 0x40
  restart := false
  enable := true
  laneErr := 0
  nbr := 0
  nbrInfo := 0
  ready := 0
  txSeq := 0
  rxSeq := 0
  acked := 0xFFFF
  txq := []
  replay := []
  replays := 0
  nakSent := false
  unacked := 0
  credit := [0, 0, 0, 0]
  rxUsed := [0, 0, 0, 0]
  paused := false
  holdLanes := false
  sent := []
  blocks := []
  turn := 0
  fec := []
  again := []

/-- Blocks of the build (R1): slices, stack ports. -/
def Build.slices : Build → Nat
  | .t12 => 12
  | .t4 => 4

/-- The four-bit states of R275 at reset. -/
def Xb.resetStacks (b : Build) : Tab (BitVec 4) := (List.range b.slices).map (fun s => (s, 1))

/-- `State.reset` of one build and one part's fuses: R13, and R337 for a later unit reset. -/
def State.resetOf (b : Build) (fu : Fuses) (stks : Tab Mem) (pending : List Instr) (free : Nat) : State where
  build := b
  fuses := fu
  pwr := ⟨0, [], 0xFFF, false⟩
  glb := ⟨0, 0, 0, 3, false, 0x4000000000000000, 0, 0, false, false, true, 0, 0, 0, [], []⟩
  clk :=
    { pllStop := false, pllDown := false, coastEv := false, coast := false, coastAge := 0, proofed := false, refOk := false, oscOk := true
      pllLock := true, hist := [0, 0xF, 0xF], trim := fu.trim, err := 0, trimSrc := 0, firstDone := false, proofAge := 0, inBand := 0
      refBand := 0, driftBand := 0, oscRuns := true, discard := false, sel := 0, islReset := 0, hung := 0, switching := [], linkReq := 2
      stwReq := 1, linkCur := 2, stwCur := 1, linkTo := none, linkAge := 0, stwTo := none, stwAge := 0, thrTime := 0, duty := 0xF
      throttled := false, pwResult := 0, pwState := 0, autoIdle := true, parkBit := false, unparkBit := false
      gated := 0 }
  time :=
    { now := 0, sub := 0, inc := 4908534053, adj := 0, cfg := 0x07C00000000F4240, syncRej := 0, stepped := false, holdover := false
      valid := false, validNext := false, offset := 0, syncIn := 0, armed := false, locks := 0, first := true
      portDelay := [], syncDue := false, syncOut := 0 }
  beat := ⟨0x800003E800000400, 0, 0, 0, 0, 0, false, false, false, false, []⟩
  cfg :=
    { load := 0x00000000000000A0, go := false, activate := false, lsRegion := 0, lsFrame := 0, purged := 0, cause := 0
      result := 0, st := 0, timing := 0x03E8006403E80064, bootResult := 0, bootBusy := false, bootAlt := false, retain := 0
      fwValid := false, fwLock := false, fwStack := 0, fwBase := 0, handoverAck := false, fwRestart := false
      upCount := 0, upRegion := 0, upFrame := 0, upBad := false, upValid := false, revoke := 0, keysLock := false
      regions := [], img := ⟨[], none, [], 0⟩, act := none, swap := none, wdogResets := 0, romHold := false, request := none
      stws := [] }
  xb :=
    { cfg := 0x0000001410001000, lockCount := 0, lockTarget := 0, lockMaster := 0, lockValid := false
      stackState := Xb.resetStacks b, cmd := 0x0000000000000048, go := false, count := 0, done := 0, entry := 0
      result := 0, errs := [], prio := [], ports := [], nextNum := 0, turn := [], held := [], locks := [], mig := none, joinWait := [] }
  fab :=
    { cfg := 0x03E800640003F1F4, addrValid := false, root := false, addr := 0, rootAddr := 0, ledger := 0
      ledgerSet := 0, ledgerEntry := 0, ledgerResult := 0, ledgerGo := false, ports := [], grp := [], route := []
      txns := [], nextTxn := 0, waiting := [], heldWrites := [], resolving := [], loop := [], coord := [], ledgerQ := [], ownerCache := [], ledgerBad := []
      discards := 0, mgmtResp := none }
  slices := []
  cells := []
  ctxs := []
  stks := stks
  tap := ⟨0x02, false, false, false, 0, none⟩
  free := free
  pending := pending

/-- A part whose fuses hold zero and no key (DESIGN CHOICE, log 4). -/
def Fuses.blank : Fuses := ⟨0, 0, 0, 0, 0, 0, 0, []⟩

/-- The machine right after reset: build T12, blank fuses (logs 3, 4), nothing written to the stacks (DESIGN CHOICE, log 7). -/
def State.reset : State := State.resetOf .t12 Fuses.blank [] [] 0

end Sys2Proof.Machine
end

