-- ==== Sys2Proof/Machine/Ops.lean ====
section
/-!
DEFINITION. The named operations over the unit's state that the meanings share: access to contexts, cells, slices, ports and
stack memory, interrupts, the fault records, windows and their translation, stack requests, semaphore counters, window
records and generations.
-/
namespace Sys2Proof.Machine

/-! ## Access -/

def State.ctx (s : State) (c : Nat) : Ctx := tabGet Ctx.reset s.ctxs c

def State.setCtx (s : State) (c : Nat) (x : Ctx) : State := { s with ctxs := tabSet Ctx.reset s.ctxs c x }

def State.updCtx (s : State) (c : Nat) (f : Ctx → Ctx) : State := s.setCtx c (f (s.ctx c))

def State.cell (s : State) (g : Nat) : Cell := tabGet Cell.reset s.cells g

def State.setCell (s : State) (g : Nat) (x : Cell) : State := { s with cells := tabSet Cell.reset s.cells g x }

def State.updCell (s : State) (g : Nat) (f : Cell → Cell) : State := s.setCell g (f (s.cell g))

def State.slice (s : State) (n : Nat) : Slice := tabGet Slice.reset s.slices n

def State.setSlice (s : State) (n : Nat) (x : Slice) : State := { s with slices := tabSet Slice.reset s.slices n x }

def State.updSlice (s : State) (n : Nat) (f : Slice → Slice) : State := s.setSlice n (f (s.slice n))

def State.stack (s : State) (k : Nat) : Mem := tabGet Mem.blank s.stks k

def State.setStack (s : State) (k : Nat) (m : Mem) : State := { s with stks := tabSet Mem.blank s.stks k m }

def State.port (s : State) (p : Nat) : Port := tabGet Port.reset s.fab.ports p

def State.setPort (s : State) (p : Nat) (x : Port) : State :=
  { s with fab := { s.fab with ports := tabSet Port.reset s.fab.ports p x } }

def State.updPort (s : State) (p : Nat) (f : Port → Port) : State := s.setPort p (f (s.port p))

def State.stackPort (s : State) (k : Nat) : StackPort := tabGet StackPort.idle s.xb.ports k

def State.setStackPort (s : State) (k : Nat) (x : StackPort) : State :=
  { s with xb := { s.xb with ports := tabSet StackPort.idle s.xb.ports k x } }

def State.region (s : State) (r : Nat) : Region := tabGet Region.default s.cfg.regions r

def State.setRegion (s : State) (r : Nat) (x : Region) : State :=
  { s with cfg := { s.cfg with regions := tabSet Region.default s.cfg.regions r x } }

def State.updRegion (s : State) (r : Nat) (f : Region → Region) : State := s.setRegion r (f (s.region r))

def Cell.queue (x : Cell) (q : Nat) : Queue := tabGet Queue.closed x.queues q

def Cell.setQueue (x : Cell) (q : Nat) (y : Queue) : Cell := { x with queues := tabSet Queue.closed x.queues q y }

def Cell.chan (x : Cell) (k : Nat) : Chan := tabGet Chan.idle x.chans k

def Cell.setChan (x : Cell) (k : Nat) (y : Chan) : Cell := { x with chans := tabSet Chan.idle x.chans k y }

def Cell.tile (x : Cell) (t : Nat) : TileRec := tabGet TileRec.empty x.tiles t

def Cell.setTile (x : Cell) (t : Nat) (y : TileRec) : Cell := { x with tiles := tabSet TileRec.empty x.tiles t y }

def Cell.gen (x : Cell) (c : Nat) : SrGen := tabGet SrGen.idle x.gens c

def Cell.setGen (x : Cell) (c : Nat) (y : SrGen) : Cell := { x with gens := tabSet SrGen.idle x.gens c y }

def State.queue (s : State) (g q : Nat) : Queue := (s.cell g).queue q

def State.setQueue (s : State) (g q : Nat) (y : Queue) : State := s.updCell g (fun x => x.setQueue q y)

def State.updQueue (s : State) (g q : Nat) (f : Queue → Queue) : State := s.setQueue g q (f (s.queue g q))

def State.updRun (s : State) (c : Nat) (f : CtxRun → CtxRun) : State := s.updCtx c (fun x => { x with run := f x.run })

def State.updGen (s : State) (c : Nat) (f : CtxGen → CtxGen) : State := s.updCtx c (fun x => { x with gen := f x.gen })

/-- A fresh seed of free values (DESIGN CHOICE, log 9). -/
def State.bump (s : State) (n : Nat) : State := { s with free := s.free + n }

/-! ## The build (R1, R3, R4) -/

def State.nSlices (s : State) : Nat := s.build.slices

def State.nCells (s : State) : Nat := 64 * s.nSlices

def State.nPorts (s : State) : Nat := match s.build with
  | .t12 => 18
  | .t4 => 6

def State.buildCode (s : State) : Nat := match s.build with
  | .t12 => 1
  | .t4 => 2

/-- Step 3 of R336 reached. -/
def State.ready (s : State) : Bool := decide (3 ≤ s.pwr.step) && !s.tap.pinsHeld

/-- CONTROL is not in reset: while it is, the control and configuration ports are idle (R404). -/
def State.controlRuns (s : State) : Bool := !bitAt s.clk.islReset.toNat 13

/-- The control port serves every register (R336, R387, R404). -/
def State.serving (s : State) : Bool := s.ready && s.controlRuns

/-- CP_READY: from step 2 of R336 on, while CONTROL runs and the port has its pins (R404, R410, R416). -/
def State.cpTakes (s : State) : Bool := decide (2 ≤ s.pwr.step) && s.controlRuns && !s.tap.pinsHeld

/-- The configuration port takes data (R404, R412, R416). -/
def State.cfgpTakes (s : State) : Bool := s.controlRuns && !s.tap.pinsHeld

/-- What comes or goes by the functional pins changes nothing while the test access port holds them (R416). -/
def State.onPins (s : State) (f : State → State) : State := if s.tap.pinsHeld then s else f s

/-- A region code the build has, of those that configuration frames exist for (R338). -/
def State.isSliceRegion (s : State) (r : Nat) : Bool := decide (r < s.nSlices)

/-- Where the fifteen region records lie: 0 to 11 slices, 12 FABRIC, 13 FW_GLOBAL, 14 FW_SLICE (R350). -/
def regionIndex (code : Nat) : Option Nat :=
  if code < 12 then some code
  else match code with
    | 0x10 => some 12
    | 0x40 => some 13
    | 0x41 => some 14
    | _ => none

def regionCode (k : Nat) : Nat :=
  if k < 12 then k
  else match k with
    | 12 => 0x10
    | 13 => 0x40
    | _ => 0x41

/-! ## Fault codes (R358) -/

def fcAlign : Nat := 0x01
def fcBounds : Nat := 0x02
def fcProtect : Nat := 0x03
def fcResidency : Nat := 0x04
def fcShape : Nat := 0x05
def fcAlias : Nat := 0x06
def fcIndexRange : Nat := 0x07
def fcIndexNeg : Nat := 0x08
def fcFormat : Nat := 0x09
def fcTimeout : Nat := 0x0A
def fcEpochStale : Nat := 0x0B
def fcPairing : Nat := 0x0C
def fcOwnerMiss : Nat := 0x0D
def fcLinkDown : Nat := 0x0E
def fcDivergent : Nat := 0x0F
def fcCfgReject : Nat := 0x10
def fcCfgUpset : Nat := 0x11
def fcClkFail : Nat := 0x12
def fcSwitchHang : Nat := 0x13
def fcLockTimeout : Nat := 0x14
def fcGenAborted : Nat := 0x16

/-! ## Interrupts (R360, R361, R411) -/

/-- One message enters the queue, or its vector becomes owed (R411). -/
def State.sendMsg (s : State) (v : Nat) : State :=
  if s.glb.msiQ.length < 256 then
    let d := BitVec.ofNat 32 (s.glb.msiData.toNat % 2 ^ 32 + v)
    { s with glb := { s.glb with msiQ := s.glb.msiQ ++ [((s.glb.msiAddr >>> 2) <<< 2, d)] } }
  else if s.glb.owed.contains v then s
  else { s with glb := { s.glb with owed := s.glb.owed ++ [v] } }

/-- GLB_MSI_DATA.ENABLE. -/
def State.msiOn (s : State) : Bool := bitAt s.glb.msiData.toNat 63

/-- Bits 3, 2 pending and 1, 0 enable of one interrupt register: set pending bit 2 + `which` (R361). -/
def irqPend (r : BitVec 4) (which : Nat) : BitVec 4 := r ||| BitVec.ofNat 4 (2 ^ (2 + which))

/-- Whether setting that pending bit sends a message. -/
def irqFires (r : BitVec 4) (which : Nat) : Bool := !bitAt r.toNat (2 + which) && bitAt r.toNat which

/-- COMP(c) (which = 0) or FAULT(c) (which = 1). -/
def State.pendCtx (s : State) (c which : Nat) : State :=
  let r := (s.ctx c).irq
  let s1 := s.updCtx c (fun x => { x with irq := irqPend r which })
  if irqFires r which && s.msiOn then s1.sendMsg (2 * c + which) else s1

/-- GLOBAL (which = 0) or SERVICE (which = 1). -/
def State.pendGlb (s : State) (which : Nat) : State :=
  let r := s.glb.irq
  let s1 := { s with glb := { s.glb with irq := irqPend r which } }
  if irqFires r which && s.msiOn then s1.sendMsg (128 + which) else s1

def State.service (s : State) : State := s.pendGlb 1

/-- A unit-level event (R359). -/
def State.globalFault (s : State) (code source index detail : Nat) : State :=
  let w := s.glb.fault.toNat
  let n := min 0xFFFF (field w 63 48 + 1)
  let rest := if bitAt w 0 then (w % 2 ^ 48) ||| 2
    else code * 2 ^ 40 + source * 2 ^ 36 + index * 2 ^ 24 + detail * 2 ^ 8 + boolNat (bitAt w 1) 1 + 1
  ({ s with glb := { s.glb with fault := BitVec.ofNat 64 (n * 2 ^ 48 + rest) } }).pendGlb 0

/-! ## Windows (R41 to R51, R253) -/

def winDecode (bs : List Byte) : WinEntry :=
  let w0 := leNat (bs.take 8)
  let w1 := leNat ((bs.drop 8).take 8)
  let w2 := leNat ((bs.drop 16).take 8)
  let w3 := leNat ((bs.drop 24).take 8)
  { base0 := field w0 47 0, base1 := field w1 47 0, stks := BitVec.ofNat 12 (field w2 59 48), limit := field w2 47 0
    valid := bitAt w3 39, aside := bitAt w3 38, remote := bitAt w3 37, fetch := bitAt w3 36, write := bitAt w3 35
    read := bitAt w3 34, resident := bitAt w3 32, gen := BitVec.ofNat 32 (w3 % 2 ^ 32) }

/-- Stack and address of entry w of a context's window table (R42, R399). -/
def State.winAddr (s : State) (c w : Nat) : Nat × Nat :=
  let t := (s.ctx c).cfg.winTab.toNat
  (field t 63 60, field t 47 12 * 4096 + 32 * w)

/-- The entry in the table. A read of it waits for a GEN that a flip is still writing there (R242 step 4, R263). -/
def State.winTable (s : State) (c w : Nat) : WinEntry :=
  let a := s.winAddr c w
  let e := winDecode ((s.stack a.1).read a.2 32)
  match tabGet none (s.ctx c).gen.newGen w with
  | some g => { e with gen := g }
  | none => e

/-- The entry as the unit uses it: its cached copy, or the table's where it holds none. A change of the entry's other fields in the
table while RESIDENT is 1 is seen only after a synchronisation (R50 leaves open which entry an access uses meanwhile:
DESIGN CHOICE, log 101). -/
def State.winLook (s : State) (c w : Nat) : WinEntry :=
  match tabGet none (s.ctx c).win.cache w with
  | some e => e
  | none => s.winTable c w

/-- The entry is cached from its first use on. -/
def State.winTouch (s : State) (c w : Nat) : State :=
  let e := s.winLook c w
  s.updCtx c (fun x => { x with win := { x.win with cache := tabSet none x.win.cache w (some e) } })

/-- The peer window that window w of context c follows (R253). -/
def State.follow (s : State) (c w : Nat) : Option (Nat × Nat) :=
  (List.range 16).findSome? (fun f =>
    let r := (tabGet (0 : Word) (s.ctx c).cfg.follow f).toNat
    if bitAt r 63 && decide (field r 9 0 = w) then some (field r 37 32, field r 47 38) else none)

/-- The entry with the GEN that translation uses (R253). -/
def State.winEff (s : State) (c w : Nat) : WinEntry :=
  let e := s.winLook c w
  match s.follow c w with
  | none => e
  | some (pc, pw) => { e with gen := (s.winLook pc pw).gen }

/-- Capacity of a stack in bytes (R388). -/
def State.capBytes (s : State) (k : Nat) : Nat := (s.pwr.caps.getD k 0).toNat * 2 ^ 30

def State.stackState (s : State) (k : Nat) : Nat := (tabGet (0 : BitVec 4) s.xb.stackState k).toNat

def WinEntry.stackList (e : WinEntry) : List Nat := bitsOf 12 e.stks.toNat

/-- Bytes one region occupies in each of its stacks (R44). -/
def WinEntry.regionBytes (e : WinEntry) : Nat := roundUp (ceilDiv e.limit (max 1 e.stackList.length)) 4096

/-- R45. -/
def State.winConsistent (s : State) (e : WinEntry) : Bool :=
  let ks := e.stackList
  !ks.isEmpty
    && ks.all (fun k => decide (k < s.nSlices) && decide (s.stackState k = 1 ∨ s.stackState k = 2))
    && decide (e.base0 % 4096 = 0 ∧ e.limit % 4096 = 0) && (!e.aside || decide (e.base1 % 4096 = 0))
    && ks.all (fun k => decide (e.base0 + e.regionBytes ≤ s.capBytes k)
        && (!e.aside || decide (e.base1 + e.regionBytes ≤ s.capBytes k)))

/-- Region holding the current contents. -/
def WinEntry.current (e : WinEntry) : Nat := e.gen.toNat % 2

/-- R44: the stack and stack-local address of a window offset in one region. -/
def WinEntry.xlate (e : WinEntry) (region off : Nat) : Nat × Nat :=
  let ks := e.stackList
  let stripe := off / 4096
  let base := if region = 1 then e.base1 else e.base0
  (ks.getD (stripe % max 1 ks.length) 0, base + stripe / max 1 ks.length * 4096 + off % 4096)

/-- The region an access uses (R44). -/
def WinEntry.region (e : WinEntry) (write openGen nonatomic : Bool) : Nat :=
  if write && openGen && !nonatomic then 1 - e.current else e.current

def State.peek (s : State) (e : WinEntry) (region off : Nat) : Byte :=
  let a := e.xlate region off
  (s.stack a.1).get a.2

def State.poke (s : State) (e : WinEntry) (region off : Nat) (b : Byte) : State :=
  let a := e.xlate region off
  s.setStack a.1 ((s.stack a.1).set a.2 b)

def State.winRead (s : State) (e : WinEntry) (region off n : Nat) : List Byte :=
  (List.range n).map (fun i => s.peek e region (off + i))

def State.winWrite (s : State) (e : WinEntry) (region off : Nat) : List Byte → State
  | [] => s
  | b :: bs => (s.poke e region off b).winWrite e region (off + 1) bs

/-- Offsets [lo, hi) of one region become undefined. -/
def State.winScramble (s : State) (e : WinEntry) (region lo hi : Nat) : State :=
  (List.range (ceilDiv hi 4096 - lo / 4096)).foldl (fun s i =>
    let st := lo / 4096 + i
    let a := max lo (st * 4096)
    let b := min hi (st * 4096 + 4096)
    let p := e.xlate region a
    if a < b then (s.setStack p.1 ((s.stack p.1).scramble p.2 (p.2 + (b - a)) s.free)).bump 1 else s) s

/-! ## Stack requests (R37, R262 to R273) -/

/-- The bytes of a piece's 512 B block that it touches. -/
def Req.touched (r : Req) : Nat := r.mask.toNat * 2 ^ (r.addr % 512)

/-- Whether two requests touch a common byte and one of them writes (R263). -/
def Req.clash (a b : Req) : Bool :=
  (a.write || b.write) && decide (a.addr / 512 = b.addr / 512) && decide (a.touched &&& b.touched ≠ 0)

/-- The smallest tag of the channel that no request of the list holds (R262, R264). -/
def freeTag (l : List Req) (write : Bool) : Option Nat :=
  let used := l.filterMap (fun r => if r.write = write then r.tag else none)
  (List.range 1024).find? (fun t => !used.contains t)

/-- Requests that wait take a tag once nothing earlier holds them back (R263). -/
def promote : List Req → List Req → List Req
  | done, [] => done
  | done, r :: rest =>
    match r.tag with
    | some _ => promote (done ++ [r]) rest
    | none =>
      if done.any (fun a => a.clash r) then promote (done ++ [r]) rest
      else promote (done ++ [{ r with tag := freeTag (done ++ rest) r.write }]) rest

/-- What may go to the controller goes. A request that timed out still holds its tag and its bytes (R263, R264). -/
def StackPort.settle (p : StackPort) : StackPort := { p with reqs := (promote p.late p.reqs).drop p.late.length }

/-- A piece arrives at the target. No request is issued to a RETIRED stack (R275). -/
def State.arrive (s : State) (k : Nat) (r : Req) : State :=
  let p := s.stackPort k
  if s.stackState k = 3 then s else s.setStackPort k { p with wait := p.wait ++ [r] }

/-- Every request that waits at a Crossway target, or is in a stack port, or whose response Crossway holds (R272). -/
def State.allReqs (s : State) : List (Nat × Req) :=
  s.xb.ports.flatMap (fun e => (e.2.reqs ++ e.2.wait).map (fun r => (e.1, r)))
    ++ s.xb.held.map (fun e => (e.1, e.2.1))

/-- Reset value of a priority register (R271). -/
def prioReset (m : Nat) : Word := if m = 27 ∨ m = 28 then 0xCCCCCCCCCCCCCCCC else 0x8888888888888888

/-- Priority of master m at target t, from 0 to 15 (R268, R271). -/
def State.pairPrio (s : State) (m t : Nat) : Nat :=
  let j := t % 16
  field (tabGet (0 : Word) s.xb.prio (3 * m + t / 16) ^^^ prioReset m).toNat (4 * j + 3) (4 * j)

/-- Effective priority of a piece at target k (R268): 15 once it has aged; before that 0 for a catch-up copy and a Taster record
(R376), XBAR_STACK_CMD.PRIO for a migration copy (R269), and that of its master and target otherwise. -/
def State.level (s : State) (k : Nat) (r : Req) : Nat :=
  if r.aged then 15
  else match r.by_ with
    | .catchup _ _ => 0
    | .taster => 0
    | .migration => field s.xb.cmd.toNat 7 4
    | _ => s.pairPrio r.master k

/-- The slice of the cells a context owns; slice 0 for a context that owns none (DESIGN CHOICE, log 114). -/
def State.sliceOf (s : State) (c : Nat) : Nat := match s.cells.find? (fun e => decide (e.2.owner = some c)) with
  | some e => e.1 / 64
  | none => 0

/-- The Crossway master port that makes request `num` (R265, R266). A slice spreads its streams over its two ports by cell and its
other requests in turn, and the fabric complex over its ports in turn; retained copies and firmware slots move through the global
Steward's port, the only one with a path to the configuration loader (DESIGN CHOICE, log 114). -/
def State.master (s : State) (by_ : Requester) (slice num : Nat) : Nat :=
  match by_ with
  | .fetch _ _ _ step => if step = 7 then 28 else 27
  | .table | .resolve _ => 28
  | .combine m => m
  | .remote _ _ => 24 + num % (if s.build = .t12 then 3 else 1)
  | .image | .plan | .taster | .retain => 29
  | .stream g _ _ | .streamWrite g _ _ => 2 * (g / 64) + g % 2
  | _ => 2 * slice + num % 2

/-- The ID that a request takes at its master (R272): that of its block, or one that no outstanding request holds; none while 256
requests are outstanding. -/
def State.freeId (s : State) (r : Req) : Option Nat :=
  let mine := s.allReqs.filterMap (fun e => if e.2.master = r.master then e.2.id.map (fun i => (e.2.num, i, e.2.group)) else none)
  if 256 ≤ (mine.map (·.1)).eraseDups.length then none
  else match (if r.group.isSome then mine.find? (fun e => decide (e.2.2 = r.group)) else none) with
    | some e => some e.2.1
    | none => (List.range 256).find? (fun i => !mine.any (fun e => decide (e.2.1 = i)))

/-- A request that waits at its master takes its ID, with all its pieces. -/
def State.giveId (s : State) (x : Req) : State := match s.freeId x with
  | none => s
  | some i => s.xb.ports.foldl (fun t e =>
      let k := e.1
      let p := t.stackPort k
      if p.wait.any (fun r => decide (r.num = x.num)) then
        t.setStackPort k { p with wait := p.wait.map (fun r => if r.num = x.num then { r with id := some i } else r) }
      else t) s

/-- Requests that wait for an ID, in order of issue, each as its first piece. -/
def State.idless (s : State) : List Req :=
  ((s.xb.ports.flatMap (fun e => e.2.wait)).foldl (fun (t : Tab (Option Req)) r =>
    if r.id.isNone then tabSet none t r.num (some ((tabGet none t r.num).getD r)) else t) []).filterMap (·.2)

/-- XBAR_CFG.URGENT (R270). -/
def State.urgent (s : State) : Nat := field s.xb.cfg.toNat 15 0

/-- The stream request of least urgency value; the earlier among equals. -/
def mostUrgent : List Req → Option Req
  | [] => none
  | r :: t => match mostUrgent t with
    | some x => if x.urgency.getD 0 < r.urgency.getD 0 then some x else some r
    | none => some r

/-- What a master port puts forward of its stream requests and another request (R225, R269): a stream request below `urgent`, else
one of each in turn; `last`: the last one was a stream request. -/
def putForward (urgent : Nat) (last : Bool) (l : List Req) (other : Option Req) : Option Req :=
  match mostUrgent (l.filter (fun r => r.urgency.isSome)), other with
  | none, o => o
  | some t, none => some t
  | some t, some o => if t.urgency.getD 0 < urgent ∨ last = false then some t else some o

/-- The order in which the requests of one master take IDs. -/
def idOrder (urgent : Nat) : Nat → Bool → List Req → List Req
  | 0, _, _ => []
  | n + 1, last, l => match putForward urgent last l (l.find? (fun r => r.urgency.isNone)) with
    | none => []
    | some r => r :: idOrder urgent n r.urgency.isSome (l.erase r)

def State.giveIds (s : State) : State :=
  let l := s.idless
  if l.isEmpty then s
  else ((List.range 30).flatMap (fun m =>
    let mine := l.filter (fun r => decide (r.master = m))
    idOrder s.urgent mine.length (tabGet false s.xb.turn m) mine)).foldl State.giveId s

/-- CROSS is not held in reset (R323). -/
def State.crossRuns (s : State) : Bool := !bitAt s.clk.islReset.toNat 12 && !s.tap.pinsHeld

/-- A target works: the island runs, and behind it the stack's signals are in use and the stack is not RETIRED (R275, R323). -/
def State.targetRuns (s : State) (k : Nat) : Bool :=
  !bitAt s.clk.islReset.toNat 12 && (decide (12 ≤ k) || (!s.tap.pinsHeld && decide (s.stackState k ≠ 3)))

/-- No other master's locked sequence holds the target (R273). -/
def State.unlocked (s : State) (k m : Nat) : Bool := s.xb.locks.all (fun l => decide (l.target ≠ k ∨ l.master = m))

/-- The pieces of one direction that the target may grant: it works, their request has its ID, no earlier piece of it waits, no lock
of another master is on the target, and a stack port has room for one of its 1,024 tags (R262, R267, R272, R273). -/
def State.grantable (s : State) (k : Nat) (write : Bool) : List Req :=
  let p := s.stackPort k
  if !s.targetRuns k || decide (1024 ≤ (p.reqs.filter (fun r => decide (r.write = write))).length) then []
  else
    let l := p.wait.filter (fun r => decide (r.write = write))
    l.zipIdx.filterMap (fun e =>
      if e.1.id.isSome && s.unlocked k e.1.master && !(l.take e.2).any (fun r => decide (r.num = e.1.num)) then some e.1 else none)

/-- The first piece of the highest effective priority. -/
def State.topPiece (s : State) (k : Nat) (l : List Req) : Option Req :=
  let top := (l.map (s.level k)).foldl max 0
  l.find? (fun r => decide (s.level k r = top))

/-- What a master port puts forward at a target, of the pieces that the target may grant (R269). -/
def State.portChoice (s : State) (k m : Nat) (l : List Req) : Option Req :=
  let mine := l.filter (fun r => decide (r.master = m))
  putForward s.urgent (tabGet false s.xb.turn m) mine (s.topPiece k (mine.filter (fun r => r.urgency.isNone)))

/-- The piece that the target grants next in one direction (R268): of what the masters put forward, the one of the highest effective
priority; among equals in turn, starting after the master granted last. -/
def State.nextGrant (s : State) (k : Nat) (write : Bool) : Option Req :=
  let l := s.grantable k write
  if l.isEmpty then none
  else
    let p := s.stackPort k
    let last := if write then p.lastW else p.lastR
    s.topPiece k ((List.range 30).filterMap (fun j => s.portChoice k ((last + 1 + j) % 30) l))

/-- One piece passes from the target into the stack port; at a slice or fabric port, or at the configuration loader, it is where it was to
go. -/
def State.grantPiece (s : State) (k : Nat) (r : Req) : State :=
  let p := s.stackPort k
  let s1 := s.setStackPort k { p with
    wait := p.wait.erase r, reqs := if k < 12 then p.reqs ++ [{ r with tag := none }] else p.reqs
    lastR := if r.write then p.lastR else r.master, lastW := if r.write then r.master else p.lastW }
  { s1 with xb := { s1.xb with turn := tabSet false s1.xb.turn r.master r.urgency.isSome } }

def State.grantAll (k : Nat) (write : Bool) : Nat → State → State
  | 0, s => s
  | n + 1, s => match s.nextGrant k write with
    | none => s
    | some r => State.grantAll k write n (s.grantPiece k r)

/-- One target grants what it may, and its port offers what it may. Time is not modelled: no piece waits for a cycle of its own. -/
def State.settlePort (s : State) (k : Nat) : State :=
  let n := (s.stackPort k).wait.length
  let s1 := State.grantAll k true n (State.grantAll k false n s)
  if s1.targetRuns k then s1.setStackPort k (s1.stackPort k).settle else s1

/-- Every master, target and port goes as far as it may. -/
def State.settlePorts (s : State) : State := (s.xb.ports.map (·.1)).foldl State.settlePort s.giveIds

/-- A granule of a transfer as a key: stack and granule address; its value is the mask of the bytes touched. -/
def granKey (k a : Nat) : Nat := k * 2 ^ 42 + a / 64

/-- The granules of a list of (stack, address) bytes, each granule once (R37). -/
def touch (bytes : List (Nat × Nat)) : Tab Nat := bytes.foldl (fun t a =>
  tabSet 0 t (granKey a.1 a.2) (tabGet 0 t (granKey a.1 a.2) ||| 2 ^ (a.2 % 64))) []

/-- Whole granules, named by one address in each. -/
def touchWhole (addrs : List (Nat × Nat)) : Tab Nat := addrs.foldl (fun t a => tabSet 0 t (granKey a.1 a.2) (2 ^ 64 - 1)) []

/-- The whole granules of the bytes from `lo` up to `hi` of a stack. -/
def granRun (k lo hi : Nat) : Tab Nat :=
  (List.range' (lo / 64) (ceilDiv hi 64 - lo / 64)).map (fun g => (k * 2 ^ 42 + g, 2 ^ 64 - 1))

/-- Stack bytes of a transfer, in whole granules (R37, R379). -/
def granBytes (g : Tab Nat) : Nat := 64 * g.length

/-- Runs of adjacent granules, cut where the granule number is a multiple of `n` (R267). -/
def cutRuns (n : Nat) : Tab Nat → List (Tab Nat)
  | [] => []
  | e :: t => match cutRuns n t with
    | (f :: r) :: rest => if f.1 = e.1 + 1 ∧ f.1 % n ≠ 0 then (e :: f :: r) :: rest else [e] :: (f :: r) :: rest
    | l => [e] :: l

/-- What a master asks for, apart from the bytes. -/
structure Ask where
  write : Bool
  by_ : Requester
  slice : Nat := 0
  urgency : Option Nat := none
  window : Option (Nat × Nat) := none
  ackTo : Option Frame := none
  port : Option Nat := none     -- the master port of a locked sequence (R273)
  group : Option (Nat × Nat × Nat) := none

/-- One piece of a request: granules that lie in one 512 B block (R262, R267). -/
def Ask.piece (a : Ask) (s : State) (num : Nat) (data : Nat → Nat → List Byte) (g : Tab Nat) : Nat × Req :=
  let first := (g.headD (0, 0)).1
  let k := first / 2 ^ 42
  let addr := first % 2 ^ 42 * 64
  let m := g.foldl (fun m e => m + (if a.write then e.2 else 2 ^ 64 - 1) * 2 ^ (64 * (e.1 - first))) 0
  (k, { write := a.write, tag := none, addr := addr, len := g.length, mask := BitVec.ofNat 512 m
        data := (data k addr).take (64 * g.length)
        by_ := a.by_, master := a.port.getD (s.master a.by_ a.slice num), num := num, id := none, urgency := a.urgency
        window := a.window, aged := false, ackTo := a.ackTo, group := a.group })

/-- One request of at most one 4 KiB stripe, in its pieces (R267). -/
def State.askRun (a : Ask) (data : Nat → Nat → List Byte) (s : State) (g : Tab Nat) : State :=
  let num := s.xb.nextNum
  (cutRuns 8 g).foldl (fun t p => let r := a.piece s num data p
                                  t.arrive r.1 r.2) { s with xb := { s.xb with nextNum := num + 1 } }

/-- The requests of a transfer enter Crossway (R267). `data` gives the DATA from an address on. -/
def State.askWith (s : State) (a : Ask) (data : Nat → Nat → List Byte) (g : Tab Nat) : State :=
  ((cutRuns 64 g).foldl (State.askRun a data) s).settlePorts

/-- A transfer whose DATA is what the memory holds: what a read brings back, or what a write has left there already (DEDUCED, log 20). -/
def State.ask (s : State) (a : Ask) (g : Tab Nat) : State := s.askWith a (fun k x => (s.stack k).read x 512) g

/-- A transfer of one context's control traffic, through the slice of its cells. -/
def State.issueAll (s : State) (write : Bool) (by_ : Requester) (w : Option (Nat × Nat)) (g : Tab Nat) : State :=
  s.ask { write := write, by_ := by_, slice := match w with
            | some o => s.sliceOf o.1
            | none => 0
          window := w } g

/-- The Crossway target of port p of a slice, of fabric port f, and of the configuration loader (R265). -/
def slicePort (slice p : Nat) : Nat := 12 + 2 * slice + p % 2
def State.fabricTarget (s : State) (f : Nat) : Nat := 36 + f % (if s.build = .t12 then 3 else 1)
def loaderTarget : Nat := 39

/-- A transfer between two Crossway ports of which neither is a stack's, over the addresses at the receiving side (R266, R267). -/
def State.crossSend (s : State) (by_ : Requester) (master target : Nat) (addrs : List Nat) : State :=
  s.askWith { write := true, by_ := by_, port := some master } (fun _ _ => []) (touch (addrs.map (fun a => (target, a))))

/-- Staging bytes of a cell as a slice port counts them (DESIGN CHOICE, log 114). -/
def cellAddr (g byte : Nat) : Nat := g % 64 * 2 ^ 20 + byte

def State.outstanding (s : State) (by_ : Requester) : Bool := s.allReqs.any (fun e => decide (e.2.by_ = by_))

/-- A read of the descriptor fetcher or the owner-table walker for instruction n is outstanding; a piece of the recipe holds up to
four instructions (R149, R264). -/
def State.fetchWaits (s : State) (c : Nat) (n : BitVec 32) : Bool := s.allReqs.any (fun e => match e.2.by_ with
  | .fetch o m stage step => decide (o = c) && (if stage = 1 ∧ step = 0 then decide ((n - m).toNat < 4) else decide (n = m))
  | _ => false)

/-- A saturating 64-bit counter (R379). -/
def satAdd (w : Word) (n : Nat) : Word := BitVec.ofNat 64 (min (2 ^ 64 - 1) (w.toNat + n))

def State.addBytes (s : State) (c n : Nat) : State := s.updCtx c (fun x => { x with perfBytes := satAdd x.perfBytes n })

/-! ## Cells (R5, R87, R368, R369) -/

/-- The spare that serves a position, if one does. -/
def Slice.spareOf (x : Slice) (pos : Nat) : Option Nat :=
  (List.range 4).find? (fun k => match x.spares[k]? with
    | some sp => decide (sp.st = 1 ∧ sp.pos.toNat = pos)
    | none => false)

/-- Physical cell that serves a position (R368). -/
def Slice.physOf (x : Slice) (pos : Nat) : Nat := match x.spareOf pos with
  | some k => 64 + k
  | none => pos

/-- R368, R372: the cell that served the position, its home cell or a spare, is fenced, and no spare serves it. -/
def Slice.isDown (x : Slice) (pos : Nat) : Bool := (bitAt x.fenced.toNat pos || bitAt x.lost.toNat pos) && (x.spareOf pos).isNone

def State.cellDown (s : State) (g : Nat) : Bool := (s.slice (g / 64)).isDown (g % 64)

/-- Global physical cell index (R368). -/
def State.physCell (s : State) (g : Nat) : Nat := g / 64 * 68 + (s.slice (g / 64)).physOf (g % 64)

end Sys2Proof.Machine
end

