-- ==== Sys2Proof/Machine/Frames.lean ====
section
/-!
DEFINITION. Frames of the Emward fabric: CRC-32C, header fields, the frames this node originates, routing (R283, R290, R291,
R296), and the sending side of a port (R285, R286).
-/
namespace Sys2Proof

/-! ## CRC-32C (R283, R296) -/

def crcBit (c : Nat) : Nat := if c % 2 = 1 then (c / 2) ^^^ 0x82F63B78 else c / 2

def crcByte (c : Nat) (b : Byte) : Nat :=
  crcBit (crcBit (crcBit (crcBit (crcBit (crcBit (crcBit (crcBit (c ^^^ b.toNat))))))))

def crc32c (bs : List Byte) : Nat := bs.foldl crcByte 0xFFFFFFFF ^^^ 0xFFFFFFFF

/-! ## Header fields (R290) -/

def opReadReq : Nat := 0x01
def opReadResp : Nat := 0x02
def opWrite : Nat := 0x03
def opWriteAck : Nat := 0x04
def opGenJoin : Nat := 0x08
def opGenOpen : Nat := 0x09
def opGenVote : Nat := 0x0A
def opGenDecide : Nat := 0x0B
def opGenAbortReq : Nat := 0x0C
def opGenInquire : Nat := 0x0D
def opLedgerSet : Nat := 0x10
def opRegRd : Nat := 0x18
def opRegWr : Nat := 0x19
def opMgmtResp : Nat := 0x1A

def opKnown (op : Nat) : Bool :=
  [opReadReq, opReadResp, opWrite, opWriteAck, opGenJoin, opGenOpen, opGenVote, opGenDecide, opGenAbortReq, opGenInquire,
    opLedgerSet, opRegRd, opRegWr, opMgmtResp].contains op

/-- Virtual channel of an operation. -/
def vcOf (op : Nat) : Nat :=
  if op = opReadReq ∨ op = opWrite then 0
  else if op = opReadResp ∨ op = opWriteAck then 1
  else if opGenJoin ≤ op ∧ op ≤ opGenInquire then 2
  else 3

def NetHdr.entry (h : NetHdr) : Nat := field h.w2.toNat 63 40
def NetHdr.boff (h : NetHdr) : Nat := field h.w2.toNat 39 10
def NetHdr.len (h : NetHdr) : Nat := field h.w2.toNat 9 0
def NetHdr.combine (h : NetHdr) : Nat := field h.w3.toNat 63 61
def NetHdr.pos (h : NetHdr) : Nat := field h.w3.toNat 31 0

def packW2 (entry boff len : Nat) : Word := BitVec.ofNat 64 (entry % 2 ^ 24 * 2 ^ 40 + boff % 2 ^ 30 * 2 ^ 10 + len % 2 ^ 10)

/-- A management operation carries its source route in words 2 and 3 (R290, R295). -/
def NetHdr.routePair (h : NetHdr) : Nat := h.w2.toNat + h.w3.toNat * 2 ^ 64
def NetHdr.routePort (h : NetHdr) (k : Nat) : Nat := field h.routePair (5 * k + 4) (5 * k)
def NetHdr.hptr (h : NetHdr) : Nat := field h.routePair 84 80
def NetHdr.rlen (h : NetHdr) : Nat := field h.routePair 88 85 + 1

def sourceRouted (op : Nat) : Bool := op = opRegRd ∨ op = opRegWr

/-- HPTR replaced. -/
def NetHdr.setHptr (h : NetHdr) (v : Nat) : NetHdr :=
  let w := h.routePair - h.hptr * 2 ^ 80 + v % 32 * 2 ^ 80
  { h with w2 := BitVec.ofNat 64 w, w3 := BitVec.ofNat 64 (w / 2 ^ 64) }

/-! ## Frames as bytes (R283) -/

/-- The 8 B link header. -/
def linkWord (type vc seq ack cvc cred : Nat) : Word :=
  BitVec.ofNat 64 (type * 2 ^ 60 + vc * 2 ^ 58 + seq * 2 ^ 42 + ack * 2 ^ 26 + cvc * 2 ^ 24 + cred * 2 ^ 12)

/-- A frame as it is sent: header, body, and the CRC-32C over both. -/
def wire (header : Word) (body : List Byte) : List Byte :=
  let b := natLe 8 header.toNat ++ body
  b ++ natLe 4 (crc32c b)

/-- TYPE of a frame. -/
def frameType (bs : List Byte) : Nat := field (leNat (bs.take 8)) 63 60

/-- The four words of the transport header (R290). -/
def NetHdr.bytes (h : NetHdr) : List Byte :=
  natLe 8 (h.op.toNat * 2 ^ 58 + h.dst.toNat * 2 ^ 38 + h.src.toNat * 2 ^ 18 + h.ctx.toNat * 2 ^ 12 + h.hops.toNat * 2 ^ 6)
    ++ natLe 8 (h.fgen.toNat * 2 ^ 32 + h.txn.toNat * 2 ^ 16 + h.status.toNat * 2 ^ 8 + h.fmt.toNat)
    ++ natLe 8 h.w2.toNat ++ natLe 8 h.w3.toNat

/-- A DATA frame as it is sent, its payload padded with zeros to a multiple of 8 B. -/
def Frame.wire (f : Frame) : List Byte :=
  Sys2Proof.wire (linkWord 1 f.vc.toNat f.seq.toNat f.ack.toNat f.cvc.toNat f.cred.toNat)
    (f.hdr.bytes ++ f.payload ++ List.replicate (roundUp f.payload.length 8 - f.payload.length) 0)

/-- Bytes of a DATA frame (R283). -/
def Frame.bytes (f : Frame) : Nat := 8 + 32 + roundUp f.payload.length 8 + 4

/-- Its length in credit units. -/
def Frame.units (f : Frame) : Nat := ceilDiv f.bytes 64

/-- An answer turned into one with a STATUS and no payload. -/
def Frame.failed (f : Frame) (status : Nat) : Frame :=
  { f with hdr := { f.hdr with status := BitVec.ofNat 8 status, w2 := packW2 f.hdr.entry f.hdr.boff 0 }, payload := [] }

namespace Machine

/-- HOPS of a frame this node originates (R289, R291). -/
def State.hoplim (s : State) : BitVec 6 :=
  let v := field s.fab.cfg.toNat 17 12
  BitVec.ofNat 6 (if v = 0 then 0x3F else v)

/-- A frame of this node; SEQ and ACK are filled in when it is sent. -/
def State.mkFrame (s : State) (op : Nat) (dst : BitVec 20) (ctx : Nat) (fgen : BitVec 32) (txn : BitVec 16) (status fmt : Nat)
    (w2 w3 : Word) (payload : List Byte) : Frame :=
  { vc := BitVec.ofNat 2 (vcOf op), seq := 0, ack := 0, cvc := 0, cred := 0
    hdr := { op := BitVec.ofNat 6 op, dst := dst, src := s.fab.addr, ctx := BitVec.ofNat 6 ctx, hops := s.hoplim, fgen := fgen
             txn := txn, status := BitVec.ofNat 8 status, fmt := BitVec.ofNat 8 fmt, w2 := w2, w3 := w3 }
    payload := payload }

/-! ## The sending side of a port (R285, R286) -/

def Port.isUp (p : Port) : Bool := decide (p.st = 3)

def Port.replayBytes (p : Port) : Nat := sumNat (p.replay.map Frame.bytes)

/-- Whether a waiting frame may go now: credit on its channel, room in the replay buffer, no lane-map exchange. -/
def Port.maySend (p : Port) (f : Frame) : Bool :=
  p.isUp && !p.paused && decide (f.units ≤ listGet p.credit f.vc.toNat) && decide (p.replayBytes + f.bytes ≤ 0x40000)

/-- Lanes that carry blocks: the active ones, and before the port is UP all that are trained and not retired. -/
def Port.lanes (p : Port) : List Nat := bitsOf 8 (if p.isUp then p.active else p.ready &&& ~~~p.retire).toNat

/-- 257-bit blocks of a frame: 256 bits of data, dealt round-robin over the lanes; the header of the first marks the frame's start
(R282). -/
def laneBlocks (lanes : List Nat) (turn : Nat) (bs : List Byte) : List (Nat × Bool × List Byte) :=
  (List.range (ceilDiv bs.length 32)).map (fun k =>
    (lanes.getD ((turn + k) % max 1 lanes.length) 0, decide (k = 0), (bs.drop (32 * k)).take 32))

/-- A block as a number: bit 0 is its header, 0 where it marks a frame's start (PRESUMED, log 112), and then its data. -/
def blockBits (b : Nat × Bool × List Byte) : Nat := (if b.2.1 then 0 else 1) + 2 * leNat b.2.2

/-- A lane takes a block; every twentieth makes a codeword full, which goes out on that lane alone (R282). -/
def LaneFec.take (x : LaneFec) (b : Nat) : LaneFec :=
  let w := x.waiting ++ [b]
  if w.length < 20 then { x with waiting := w } else ⟨[], rsEncode (fecSymbols w)⟩

def feedLanes (fec : Tab LaneFec) (blocks : List (Nat × Bool × List Byte)) : Tab LaneFec :=
  blocks.foldl (fun t b => tabSet LaneFec.empty t b.1 ((tabGet LaneFec.empty t b.1).take (blockBits b))) fec

/-- A frame's bytes go out as these blocks. -/
def Port.emitBlocks (p : Port) (bs : List Byte) (blocks : List (Nat × Bool × List Byte)) : Port :=
  { p with sent := bs, blocks := blocks, fec := feedLanes p.fec blocks }

/-- A frame goes out on some lanes, its blocks dealt to them in turn. -/
def Port.outOn (p : Port) (lanes : List Nat) (bs : List Byte) : Port :=
  { p.emitBlocks bs (laneBlocks lanes p.turn bs) with turn := (p.turn + ceilDiv bs.length 32) % max 1 lanes.length }

/-- A frame goes out. -/
def Port.out (p : Port) (bs : List Byte) : Port := p.outOn p.lanes bs

/-- A frame goes out whole on every lane (R288). -/
def Port.outEach (p : Port) (bs : List Byte) : Port := p.emitBlocks bs (p.lanes.flatMap (fun l => laneBlocks [l] 0 bs))

/-- One frame leaves: it takes the next SEQ and enters the replay buffer. -/
def Port.sendOne (p : Port) (f : Frame) : Port :=
  let v := f.vc.toNat
  let g := { f with seq := p.txSeq, ack := p.rxSeq - 1 }
  { p.out g.wire with
    txSeq := p.txSeq + 1
    credit := p.credit.set v (listGet p.credit v - f.units)
    replay := p.replay ++ [g] }

/-- Every unacknowledged frame is sent again, in order, with the ACK of the moment (R286, R287). -/
def Port.resend (p : Port) : Port :=
  p.replay.foldl (fun x f =>
    let g := { f with ack := x.rxSeq - 1 }
    { x.out g.wire with again := x.again ++ [g] }) { p with again := [] }

/-- Frames that may go now, in order on each channel; a channel that is held back holds back no other. -/
def pumpFrames : List Frame → List Nat → List Frame → Port → Port
  | [], _, kept, p => { p with txq := kept }
  | f :: t, held, kept, p =>
    if !held.contains f.vc.toNat && p.maySend f then pumpFrames t held kept (p.sendOne f)
    else pumpFrames t (f.vc.toNat :: held) (kept ++ [f]) p

def Port.pump (p : Port) : Port := pumpFrames p.txq [] [] p

def Port.push (p : Port) (f : Frame) : Port := ({ p with txq := p.txq ++ [f] }).pump

/-! ## Routing (R296) -/

def routeMatch (e dst : Nat) : Bool :=
  let pl := field e 57 53
  bitAt e 63 && decide (pl ≤ 20) && decide (field e 52 50 ≤ 3) && decide (field e 19 0 / 2 ^ (20 - pl) = dst / 2 ^ (20 - pl))

/-- The routing entry of a destination: greatest PLEN, then lowest number. -/
def bestRoute (t : Tab Word) (dst : Nat) : Option Nat :=
  (t.foldl (fun (b : Option Nat) e =>
    let w := e.2.toNat
    if routeMatch w dst then match b with
      | some v => if field v 57 53 < field w 57 53 then some w else b
      | none => some w
    else b) none)

def State.liveHops (s : State) (e : Nat) : List Nat :=
  ((List.range (field e 52 50 + 1)).map (fun k => field e (34 + 5 * k) (30 + 5 * k))).filter (fun p =>
    decide (p < s.nPorts) && (s.port p).isUp)

/-- The port a header leaves by, if there is one. -/
def State.routeOf (s : State) (h : NetHdr) : Option Nat :=
  match bestRoute s.fab.route h.dst.toNat with
  | none => none
  | some e =>
    let live := s.liveHops e
    let v := h.dst.toNat + h.src.toNat * 2 ^ 20 + h.ctx.toNat * 2 ^ 40 + h.entry % 2 ^ 18 * 2 ^ 46
    if live.isEmpty then none else live[crc32c (natLe 8 v) % live.length]?

/-- The answer to a request, from this node: LEN is that of its own payload, and a source route stays (R290). -/
def State.answerTo (s : State) (f : Frame) (op status : Nat) (fgen : BitVec 32) (payload : List Byte) : Frame :=
  let h := f.hdr
  let routed := sourceRouted h.op.toNat
  s.mkFrame op h.src h.ctx.toNat fgen h.txn status h.fmt.toNat (if routed then h.w2 else packW2 h.entry h.boff payload.length)
    (if routed then h.w3 else 0) payload

/-- The operation that answers a request. -/
def answerOp (op : Nat) : Option Nat :=
  if op = opReadReq then some opReadResp else if op = opWrite then some opWriteAck
  else if op = opLedgerSet then some opMgmtResp else none

/-- A frame to a port; while the test access port holds the pins, it waits there (R416). -/
def State.pushTo (s : State) (q : Nat) (f : Frame) : State :=
  s.updPort q (fun x => if s.tap.pinsHeld then { x with txq := x.txq ++ [f] } else x.push f)

/-- Where a frame goes: this node itself, a port, or nowhere. -/
def State.emit1 (s : State) (f : Frame) : Option State :=
  if f.hdr.dst = s.fab.addr then some { s with fab := { s.fab with loop := s.fab.loop ++ [f] } }
  else (s.routeOf f.hdr).map (fun p => s.pushTo p f)

/-- A frame is sent; a request that has no live route is answered LINK_DOWN, any other frame is discarded (R296). -/
def State.emit (s : State) (f : Frame) : State :=
  match s.emit1 f with
  | some s1 => s1
  | none => match answerOp f.hdr.op.toNat with
    | some op => (s.emit1 (s.answerTo f op fcLinkDown 0 [])).getD s
    | none => s

/-- A request of another node, or of this one, is answered with a STATUS alone. -/
def State.refuseReq (s : State) (f : Frame) (status : Nat) : State := match answerOp f.hdr.op.toNat with
  | some op => s.emit (s.answerTo f op status 0 [])
  | none => s

def State.countDiscard (s : State) : State := { s with fab := { s.fab with discards := s.fab.discards + 1 } }

/-! ## Groups (R306) -/

def State.grp (s : State) (c : Nat) : Nat := (tabGet (0 : Word) s.fab.grp c).toNat
def State.gid (s : State) (c : Nat) : BitVec 16 := BitVec.ofNat 16 (field (s.grp c) 63 48)
def State.coordOf (s : State) (c : Nat) : BitVec 20 := BitVec.ofNat 20 (field (s.grp c) 47 28)
def State.membersM1 (s : State) (c : Nat) : Nat := field (s.grp c) 27 8

/-- A generation message of member context c to its coordinator. -/
def State.coordFrame (s : State) (c op : Nat) (fgen : BitVec 32) : Frame :=
  s.mkFrame op (s.coordOf c) c fgen 0 0 0 (packW2 (s.gid c).toNat (s.membersM1 c) 0) 0 []

def State.toCoord (s : State) (c op : Nat) (fgen : BitVec 32) : State := s.emit (s.coordFrame c op fgen)

end Machine

end Sys2Proof
end

