-- ==== Sys2Proof/Machine/Stops.lean ====
section
/-!
DEFINITION. Window records and generations (R241 to R247, R255), the fault record and every way a context stops (R203 to
R205, R250), retirement (R192) and semaphore counters (R193 to R198).
-/
namespace Sys2Proof.Machine

/-! ## Window records (R243 to R247) -/

def State.winRec (s : State) (c w : Nat) : WinRec := tabGet WinRec.clean (s.ctx c).recs w

def State.setRec (s : State) (c w : Nat) (r : WinRec) : State :=
  s.updCtx c (fun x => { x with recs := tabSet WinRec.clean x.recs w r })

/-- Sorted intervals of stripes with one more; touching ones become one. -/
def ivInsert : List (Nat × Nat) → Nat → Nat → List (Nat × Nat)
  | [], a, n => [(a, n)]
  | (b, m) :: t, a, n =>
    if b + m < a then (b, m) :: ivInsert t a n
    else if a + n < b then (a, n) :: (b, m) :: t
    else ivInsert t (min a b) (max (a + n) (b + m) - min a b)

def ivGaps : List (Nat × Nat) → List Nat
  | (a, n) :: (b, m) :: t => (b - (a + n)) :: ivGaps ((b, m) :: t)
  | _ => []

def ivMergeAt : List (Nat × Nat) → Nat → List (Nat × Nat)
  | (a, _) :: (b, m) :: t, 0 => (a, b + m - a) :: t
  | h :: t, k + 1 => h :: ivMergeAt t k
  | l, _ => l

/-- Position of the least element, the first of equals: of gaps equally small the lowest is merged (R243 names none of them; DESIGN
CHOICE, log 123). -/
def argMin (l : List Nat) : Nat := (l.zipIdx.foldl (fun b e => if e.1 < b.1 then e else b) (l.headD 0, 0)).2

/-- R243: at most 15 intervals, the smallest gap merged first. -/
def ivBound (l : List (Nat × Nat)) : List (Nat × Nat) := if 15 < l.length then ivMergeAt l (argMin (ivGaps l)) else l

/-- The footprint [lo, hi] of a write joins a record, which becomes DIRTY (R243, R247). -/
def WinRec.add (r : WinRec) (lo hi : Nat) (gen : BitVec 32) : WinRec :=
  let l := ivBound (ivInsert r.ivs (lo / 4096) (hi / 4096 + 1 - lo / 4096))
  { r with
    st := .dirty
    ivs := l
    all := r.all || l.any (fun e => decide (2 ^ 28 < e.2))
    gen := gen }

/-- The record's bytes in the generation table (R243). -/
def WinRec.bytes (r : WinRec) : List Byte :=
  let st := match r.st with
    | .clean => 0
    | .dirty => 1
    | .lag => 2
  natLe 8 (st * 2 ^ 62 + min 15 r.ivs.length * 2 ^ 58 + boolNat r.all 57)
    ++ (List.range 15).flatMap (fun k => match r.ivs[k]? with
      | some e => natLe 8 (e.1 * 2 ^ 28 + (e.2 - 1) % 2 ^ 28)
      | none => natLe 8 0)

/-- Window and offset of a context's save area (R258). -/
def State.saveAt (s : State) (c : Nat) : Nat × Nat :=
  let r := (s.ctx c).cfg.save.toNat
  (field r 57 48, field r 47 12 * 4096)

/-- Bytes written in place into the save area. -/
def State.saveWrite (s : State) (c off : Nat) (bs : List Byte) : State :=
  let (w, o) := s.saveAt c
  let e := s.winEff c w
  s.winWrite e e.current (o + off) bs

def State.saveRead (s : State) (c off n : Nat) : List Byte :=
  let (w, o) := s.saveAt c
  let e := s.winEff c w
  s.winRead e e.current (o + off) n

def State.saveWindow (s : State) (c : Nat) : WinEntry := s.winEff c (s.saveAt c).1

/-- A window record that the end of a generation changes cannot be written, because the save window is not resident (R258). -/
def State.recordsHeld (s : State) (c : Nat) : Bool :=
  (s.ctx c).recs.any (fun r => decide (r.2.st = .dirty)) && !(s.saveWindow c).resident

/-- A changed record, in the unit and, where the save window is resident, in the generation table (R258; DEDUCED, log 127). -/
def State.putRec (s : State) (c w : Nat) (r : WinRec) : State :=
  let t := s.setRec c w r
  if (s.saveWindow c).resident then t.saveWrite c (0x1000 + 128 * w) r.bytes else t

/-- A write into a window with an aside region is recorded; aside writes also join the write set (R241, R243, R247). -/
def State.recordWrite (s : State) (c w lo hi : Nat) (nonatomic : Bool) : State :=
  let e := s.winEff c w
  if e.aside then
    let s1 := s.putRec c w ((s.winRec c w).add lo hi e.gen)
    if nonatomic then s1
    else s1.updGen c (fun g => { g with writeSet := if g.writeSet.contains w then g.writeSet else g.writeSet ++ [w] })
  else s

/-! ## Generations (R241, R244, R255) -/

/-- Stripes a catch-up copy covers. -/
def WinRec.stripes (r : WinRec) (limit : Nat) : List Nat :=
  if r.all then List.range (ceilDiv limit 4096)
  else r.ivs.flatMap (fun e => (List.range e.2).map (· + e.1))

/-- Granules of the recorded stripes, as (address in the source region, address in the other). -/
def WinEntry.copyPairs (e : WinEntry) (st : List Nat) : List ((Nat × Nat) × Nat × Nat) :=
  st.flatMap (fun k => (List.range 64).map (fun g => (e.xlate e.current (k * 4096 + g * 64), e.xlate (1 - e.current) (k * 4096 + g * 64))))

/-- The requests of a copy: its reads, and its writes with the bytes at each granule's source as their DATA (R262). -/
def State.askCopy (s : State) (a : Ask) (pairs : List ((Nat × Nat) × Nat × Nat)) : State :=
  let srcOf := fun (k x : Nat) => (pairs.find? (fun p => decide (p.2 = (k, x)))).map (·.1)
  let data := fun (k x : Nat) => (List.range 8).flatMap (fun g => match srcOf k (x + 64 * g) with
    | some p => (s.stack p.1).read p.2 64
    | none => List.replicate 64 0)
  (s.ask { a with write := false } (touchWhole (pairs.map (·.1)))).askWith { a with write := true } data (touchWhole (pairs.map (·.2)))

/-- The background copy of one LAG record asks for its stripes (R244, R268). -/
def State.startCatchup (s : State) (c w : Nat) : State :=
  let e := s.winEff c w
  let st := (s.winRec c w).stripes e.limit
  if e.resident then
    let s1 := s.setRec c w { s.winRec c w with paused := false, retry := false }
    let s2 := s1.askCopy { write := false, by_ := .catchup c w, slice := s.sliceOf c, window := some (c, w) } (e.copyPairs st)
    s2.addBytes c (2 * 4096 * st.length)
  else s.setRec c w { s.winRec c w with paused := true }

/-- Every DIRTY record becomes LAG and its copy begins (R244). -/
def State.lagRecords (s : State) (c : Nat) : State :=
  (List.range 1024).foldl (fun s w =>
    let r := s.winRec c w
    if r.st = .dirty then (s.putRec c w { r with st := .lag }).startCatchup c w else s) s

/-- A JOINING stack waits no longer for the context's generation (R280). -/
def State.dropJoinWait (s : State) (c : Nat) : State :=
  { s with xb := { s.xb with joinWait := s.xb.joinWait.filter (fun e => decide (e.2 ≠ c)) } }

/-- The open generation ends: published (`last` = 1), released or aborted (R244, R250, R251). -/
def State.releaseGen (s : State) (c : Nat) (last : BitVec 2) : State :=
  ((s.updGen c (fun g => { g with
    isOpen := false, fab := false, flip := .none, last := last, writeSet := [], member := .idle })).dropJoinWait c).lagRecords c

/-- R255. -/
def State.setReplayHead (s : State) (c : Nat) (h : BitVec 32) : State :=
  s.updGen c (fun g => { g with replayHead := h, noReplay := false })

/-- A local generation opens (R162, R178). -/
def State.openLocal (s : State) (c : Nat) : State :=
  s.updGen c (fun g => { g with isOpen := true, fab := false, writeSet := [], member := .idle })

def State.markUnsafe (s : State) (c : Nat) : State := s.updGen c (fun g => { g with noReplay := true })

/-! ## Context faults (R203, R401) -/

def optField (o : Option Nat) (validAt lo : Nat) : Nat := match o with
  | none => 0
  | some v => 2 ^ validAt + v * 2 ^ lo

/-- CTX_FAULT0 (R401). -/
def FaultRec.word0 (f : FaultRec) (n : BitVec 32) : Word :=
  BitVec.ofNat 64 (f.code * 2 ^ 56 + f.stage * 2 ^ 53 + f.step * 2 ^ 49 + optField f.slot 48 45 + optField f.dim 44 41
    + boolNat f.pos.isSome 40 + n.toNat)

def FaultRec.word1 (f : FaultRec) : Word := BitVec.ofNat 64 (f.pos.getD 0)

def FaultRec.word2 (f : FaultRec) : Word := BitVec.ofInt 64 (f.raw.getD 0)

/-- CTX_FAULT3 (R401). -/
def FaultRec.word3 (f : FaultRec) : Word :=
  BitVec.ofNat 64 (optField f.cell 63 53 + optField f.port 52 47 + boolNat f.err 46 + optField f.node 40 20)

/-- A waiter leaves every counter's queue (R197, R205). -/
def State.leaveQueues (s : State) (c : Nat) : State :=
  (List.range 64).foldl (fun s o =>
    if (s.ctx o).sems.waiters.any (fun w => decide (w.ctx = c)) then
      s.updCtx o (fun x => { x with sems := { x.sems with waiters := x.sems.waiters.filter (fun w => decide (w.ctx ≠ c)) } })
    else s) s

/-- What a stop leaves of the instructions decoded ahead: the halted one with its copies, or nothing (R160, R204). -/
def keepHalted (l : List Cur) (resumable : Bool) : List Cur :=
  match l, resumable with
  | i :: _, true => [{ i with halted := true, pins := [] }]
  | _, _ => []

/-- The first decoded instruction of a context. -/
def State.head (s : State) (c : Nat) : Option Cur := (s.ctx c).cur.head?

def State.setHead (s : State) (c : Nat) (i : Cur) : State := s.updCtx c (fun x => { x with cur := i :: x.cur.drop 1 })

def State.running (s : State) (c : Nat) : Bool := decide ((s.ctx c).run.st = .running)

/-- A member that has not voted tells the coordinator to abort (R310). -/
def State.askAbort (s : State) (c : Nat) : State :=
  let g := (s.ctx c).gen
  if g.isOpen ∧ g.fab ∧ g.member = .open_ then s.toCoord c opGenAbortReq g.fgen else s

/-- The open generation is released by ABORT or by the host (R244, R250, R251, R310). -/
def State.releaseOwn (s : State) (c : Nat) : State := (s.askAbort c).releaseGen c 2

/-- A host abort that has won takes effect once the context is STOPPED; where its generation has ended by then in another way, RESULT
is the same (R250). A context that is STOPPED already keeps its CAUSE (R250 names CAUSE HOST for the stop; DESIGN CHOICE, log 124).
Without the save window the abort waits for it (R258; DEDUCED, log 127). -/
def State.settleAbort (s : State) (c : Nat) : State :=
  let g := (s.ctx c).gen
  if g.abortBit ∧ g.flip = .none ∧ g.member ≠ .voted ∧ !s.recordsHeld c then
    (if g.isOpen then s.releaseOwn c else s).updCtx c (fun x =>
      { x with run := { x.run with resumable := false }, cur := [], gen := { x.gen with abortBit := false, result := 1 } })
  else s

/-- The context becomes STOPPED. -/
def State.stopCtx (s : State) (c : Nat) (cause : BitVec 3) (fcode : Nat) (resumable : Bool) : State :=
  ((s.leaveQueues c).updCtx c (fun x =>
    { x with
      run := { x.run with
        st := .stopped, cause := cause, fcode := BitVec.ofNat 8 fcode, resumable := resumable, stopReq := false
        pendFault := none, resWin := none, hostSince := cause = 1 }
      fetched := []
      cur := keepHalted x.cur resumable })).settleAbort c

/-- RGET, RPUT and RESHARD. -/
def Cur.isFabric (i : Cur) : Bool := [0x80, 0x81, 0x82].contains (field i.word.toNat 127 120)

/-- The entry of the plan that a migration works on names the window (R277, R279). -/
def State.migrating (s : State) (c w : Nat) : Bool := match s.xb.mig with
  | some m => (match m.plan[m.entry]? with
    | some p => decide (p.ctx = c ∧ p.window = w)
    | none => false)
  | none => false

/-- R203: the fault stops the context, its record is written and its interrupt raised; a fabric instruction that stops
before its member's vote asks for the abort of its generation (R310). -/
def State.stopFault (s : State) (c : Nat) (f : FaultRec) : State :=
  let s0 := match s.head c with
    | some i => if i.isFabric then s.askAbort c else s
    | none => s
  let s1 := (s0.stopCtx c 3 f.code f.resumable).updCtx c (fun x =>
    { x with
      run := { x.run with resWin := f.win.filter (s.migrating c) }
      flt := { x.flt with f0 := f.word0 x.run.head, f1 := f.word1, f2 := f.word2, f3 := f.word3 } })
  s1.pendCtx c 1

/-! ## Retirement (R192, R255, R379) -/

/-- HEAD moves past instruction n; the next is decoded or the context is IDLE (R182, R192). -/
def State.advance (s : State) (c : Nat) : State :=
  s.updCtx c (fun x =>
    let h := x.run.head + 1
    { x with
      run := { x.run with head := h, st := if h = x.run.tail then .idle else .running, resumable := false }
      cur := x.cur.drop 1
      fetched := x.fetched.filter (fun e => decide (e.1 ≠ x.run.head))
      perfInstr := satAdd x.perfInstr 1 })

/-- What takes effect at an instruction boundary: a delivery fault that waits (R239), a host STOP (R205), and a fault that
validation found ahead in the instruction now at HEAD (R154). -/
def State.boundary (s : State) (c : Nat) : State :=
  let x := s.ctx c
  if x.run.st = .stopped then s
  else match x.run.pendFault with
    | some f => s.stopFault c f
    | none =>
      if x.run.stopReq then s.stopCtx c 1 0 false
      else match x.cur.head? with
        | some i => match i.fault with
          | some f => s.stopFault c f
          | none => s
        | none => s

def State.retire (s : State) (c : Nat) : State := (s.advance c).boundary c

/-! ## Semaphore counters (R193 to R198) -/

def State.bindOf (s : State) (c p : Nat) : Option (Nat × Nat) :=
  (List.range 16).findSome? (fun b =>
    let r := (tabGet (0 : Word) (s.ctx c).cfg.binds b).toNat
    if bitAt r 63 && decide (field r 9 0 = p) then some (field r 37 32, field r 47 38) else none)

/-- The pair that a name acts on: one binding is followed, none where R198 forbids it. -/
def State.semPair (s : State) (c p : Nat) : Option (Nat × Nat) :=
  match s.bindOf c p with
  | none => some (c, p)
  | some (pc, pp) => if pc = c ∨ (s.bindOf pc pp).isSome then none else some (pc, pp)

def State.semGet (s : State) (o p : Nat) (half : Bool) : BitVec 32 :=
  tabGet 0 (if half then (s.ctx o).sems.free else (s.ctx o).sems.filled) p

def State.semSet (s : State) (o p : Nat) (half : Bool) (v : BitVec 32) : State :=
  s.updCtx o (fun x =>
    if half then { x with sems := { x.sems with free := tabSet 0 x.sems.free p v } }
    else { x with sems := { x.sems with filled := tabSet 0 x.sems.filled p v } })

/-- An addition that would pass 2^32 − 1 is not made (R177, R195). -/
def State.semAdd (s : State) (o p : Nat) (half : Bool) (n : Nat) : Option State :=
  let v := (s.semGet o p half).toNat + n
  if v < 2 ^ 32 then some (s.semSet o p half (BitVec.ofNat 32 v)) else none

/-- Waiters on one counter, in the order in which they began to wait. -/
def State.semWaiters (s : State) (o p : Nat) (half : Bool) : List Waiter :=
  (s.ctx o).sems.waiters.filter (fun w => decide (w.pair = p ∧ w.half = half))

end Sys2Proof.Machine
end

