-- ==== Sys2Proof/Machine/Recipe.lean ====
section
/-!
DEFINITION. Recipe instructions as 128-bit words: opcodes, reserved bits and operand slots (R151 to R180), the decode of
operand tables, tensor and stream descriptors (R27, R157, R158, R212), and footprints, injectivity and staging buffers
(R38, R42, R112, R126).
-/
namespace Sys2Proof.Machine

/-- What an operand slot is for. -/
inductive Role where
  | src | dst
  | scaleOf (slot : Nat)
  | amaxOf (slot : Nat)
  | index | scratch
  | spos | inv | hist
  | keys | idx | val
  | block | carousel | stream
  | gsrc | gdst
  | ledgerOf (slot : Nat)
deriving DecidableEq, Repr

structure SlotInfo where
  role : Role
  required : Bool
  tile : Bool
deriving DecidableEq, Repr

inductive WordFmt where
  | d | t | c
deriving DecidableEq, Repr

structure OpInfo where
  fmt : WordFmt
  reserved : List (Nat × Nat)
  slots : List SlotInfo
deriving DecidableEq, Repr

def slotReq (r : Role) : SlotInfo := ⟨r, true, false⟩
def slotOpt (r : Role) : SlotInfo := ⟨r, false, false⟩
def slotTile (r : Role) : SlotInfo := ⟨r, true, true⟩

def opNop : Nat := 0x01
def opHalt : Nat := 0x02
def opCtxsave : Nat := 0x03
def opTload : Nat := 0x10
def opTstore : Nat := 0x11
def opTmove : Nat := 0x12
def opTrel : Nat := 0x13
def opTrans2d : Nat := 0x20
def opPerm : Nat := 0x21
def opRot : Nat := 0x22
def opGather : Nat := 0x30
def opScatter : Nat := 0x31
def opBucket : Nat := 0x32
def opSortk : Nat := 0x33
def opCvt : Nat := 0x40
def opReblock : Nat := 0x41
def opAmax : Nat := 0x42
def opSopen : Nat := 0x50
def opSblock : Nat := 0x51
def opSclose : Nat := 0x52
def opCarousel : Nat := 0x53
def opSwait : Nat := 0x60
def opSsignal : Nat := 0x61
def opFence : Nat := 0x62
def opGen : Nat := 0x70
def opCommit : Nat := 0x71
def opAbort : Nat := 0x72
def opReshard : Nat := 0x80
def opRget : Nat := 0x81
def opRput : Nat := 0x82

/-- R152 and the field maps of R164 to R180. -/
def opInfo (op : Nat) : Option OpInfo :=
  match op with
  | 0x01 => some ⟨.c, [(119, 0)], []⟩
  | 0x02 => some ⟨.c, [(102, 0)], []⟩
  | 0x03 => some ⟨.c, [(118, 0)], []⟩
  | 0x10 => some ⟨.d, [(47, 47), (45, 45), (17, 0)], [slotReq .src, slotOpt (.scaleOf 0)]⟩
  | 0x11 => some ⟨.d, [(17, 0)], [slotReq .dst, slotOpt (.scaleOf 0)]⟩
  | 0x12 => some ⟨.t, [(35, 0)], []⟩
  | 0x13 => some ⟨.t, [(63, 0)], []⟩
  | 0x20 => some ⟨.d, [(47, 0)], [slotTile .src, slotTile .dst, slotOpt (.scaleOf 0), slotOpt (.scaleOf 1)]⟩
  | 0x21 => some ⟨.d, [], [slotReq .src, slotReq .dst, slotOpt (.scaleOf 0), slotOpt (.scaleOf 1), slotOpt (.amaxOf 0)]⟩
  | 0x22 => some ⟨.d, [(51, 49)], [slotReq .src, slotReq .dst]⟩
  | 0x30 => some ⟨.d, [(41, 7)], [slotReq .src, slotReq .index, slotReq .dst, slotOpt (.scaleOf 0), slotOpt (.scaleOf 2)]⟩
  | 0x31 => some ⟨.d, [(37, 7)], [slotReq .src, slotReq .index, slotReq .dst, slotOpt .scratch, slotOpt (.scaleOf 0),
      slotOpt (.scaleOf 2)]⟩
  | 0x32 => some ⟨.d, [(7, 7)], [slotReq .index, slotReq .spos, slotReq .inv, slotReq .hist, slotReq .scratch]⟩
  | 0x33 => some ⟨.d, [(51, 47), (21, 7)], [slotReq .keys, slotReq .idx, slotOpt .val, slotOpt .scratch]⟩
  | 0x40 => some ⟨.d, [(42, 7)], [slotTile .src, slotTile .dst, slotOpt (.scaleOf 0), slotOpt (.scaleOf 1),
      slotOpt (.amaxOf 0), slotOpt .scratch]⟩
  | 0x41 => some ⟨.d, [(46, 7)], [slotTile .src, slotTile .dst, slotOpt (.scaleOf 0), slotOpt (.scaleOf 1), slotOpt (.amaxOf 0)]⟩
  | 0x42 => some ⟨.d, [(51, 49), (47, 7)], [slotTile .src, slotOpt (.scaleOf 0), slotOpt (.amaxOf 0)]⟩
  | 0x50 => some ⟨.d, [(30, 0)], [slotReq .stream]⟩
  | 0x51 => some ⟨.d, [(35, 0)], [slotReq .block, slotOpt (.scaleOf 0)]⟩
  | 0x52 => some ⟨.t, [(90, 0)], []⟩
  | 0x53 => some ⟨.d, [(25, 0)], [slotReq .carousel, slotOpt (.scaleOf 0)]⟩
  | 0x60 => some ⟨.c, [(92, 0)], []⟩
  | 0x61 => some ⟨.c, [(92, 0)], []⟩
  | 0x62 => some ⟨.c, [(116, 0)], []⟩
  | 0x70 => some ⟨.c, [(118, 0)], []⟩
  | 0x71 => some ⟨.c, [(118, 0)], []⟩
  | 0x72 => some ⟨.c, [(119, 0)], []⟩
  | 0x80 => some ⟨.d, [(51, 7)], [slotReq .gsrc, slotReq (.ledgerOf 0), slotReq .gdst, slotReq (.ledgerOf 2)]⟩
  | 0x81 => some ⟨.d, [(51, 48), (41, 7)], [slotReq .gsrc, slotReq (.ledgerOf 0), slotReq .index, slotReq .dst]⟩
  | 0x82 => some ⟨.d, [(51, 47), (37, 7)], [slotReq .src, slotReq .index, slotReq .gdst, slotReq (.ledgerOf 2)]⟩
  | _ => none

/-- R189. -/
def marked (op : Nat) : Bool := [opSwait, opFence, opGen, opCommit, opAbort, opHalt, opCtxsave].contains op

/-! ## Fields of a decoded instruction -/

def Cur.w (i : Cur) : Nat := i.word.toNat
def Cur.f (i : Cur) (hi lo : Nat) : Nat := field i.w hi lo
def Cur.b (i : Cur) (k : Nat) : Bool := bitAt i.w k
def Cur.op (i : Cur) : Nat := i.f 127 120
def Cur.is (i : Cur) (op : Nat) : Bool := decide (i.op = op)

/-- R155. -/
def Cur.smask (i : Cur) : Nat := i.f 119 108
def Cur.cfirst (i : Cur) : Nat := i.f 107 102
def Cur.ccount (i : Cur) : Nat := i.f 101 96 + 1

def Cur.infoFmt (i : Cur) : WordFmt := match opInfo i.op with
  | some o => o.fmt
  | none => .c

/-- Engaged cells in rank order, as global cell indices (R5, R87, R155); none for format C. -/
def Cur.cells (i : Cur) : List Nat :=
  if i.infoFmt = .c then []
  else (bitsOf 12 i.smask).flatMap (fun s => (List.range i.ccount).map (fun k => s * 64 + i.cfirst + k))

/-- ROUND, SAT, AMACC, NONATOMIC where the instruction has them (R161). -/
def Cur.hasConv (i : Cur) : Bool :=
  [opTload, opTstore, opTrans2d, opPerm, opGather, opScatter, opCvt, opReblock, opSblock].contains i.op

def Cur.round (i : Cur) : Nat :=
  if i.hasConv then i.f 51 50 else if i.is opTmove then i.f 39 38 else 0

def Cur.sat (i : Cur) : Bool :=
  if i.hasConv then i.b 49 else if i.is opTmove then i.b 37 else false

def Cur.amacc (i : Cur) : Bool :=
  if i.hasConv || i.is opRot || i.is opAmax then i.b 48 else if i.is opTmove then i.b 36 else false

def Cur.nonatomic (i : Cur) : Bool :=
  [opTstore, opPerm, opRot, opGather, opScatter, opCvt, opReblock, opRget].contains i.op && i.b 47

/-- COMBINE and ACC (R133, R170, R173, R179). -/
def Cur.combine (i : Cur) : Nat :=
  if i.is opScatter || i.is opRput then i.f 41 39 else if i.is opCvt then i.f 46 44 else 0

def Cur.acc (i : Cur) : Bool :=
  if i.is opScatter || i.is opRput then i.b 38 else if i.is opCvt then i.b 43 else false

def Cur.axis (i : Cur) : Nat := i.f 46 44

/-- INDEX_MODE (R124). -/
def Cur.indexMode (i : Cur) : Nat := if i.is opBucket then i.f 9 8 else i.f 43 42

/-- SBUF (R161). -/
def Cur.sbuf (i : Cur) : Nat := 0x80000 + i.f 6 0 * 0x1000

/-- AXMAP entry k of PERM (R168). -/
def Cur.axmap (i : Cur) (k : Nat) : Nat := i.f (25 + 3 * k) (23 + 3 * k)
def Cur.permRev (i : Cur) (k : Nat) : Bool := i.b (15 + k)

/-- A cell axis field: 0xF names none (R168). -/
def axisField (v : Nat) : Option Nat := if v = 0xF then none else some v

/-! ## Operand tables (R156 to R158) -/

/-- A tile named by a table entry or by instruction fields. -/
structure TileRef where
  tile : Nat
  stile : Nat
  rows : Nat
  width : Nat
  fmt : Nat
  reinterpret : Bool
deriving DecidableEq, Repr

def entryKind (e : Word) : Nat := field e.toNat 63 61

def entryTile (e : Word) : TileRef :=
  let w := e.toNat
  ⟨field w 60 56, field w 55 51, field w 50 45 + 1, 32 * (field w 44 42 + 1), field w 41 34, bitAt w 33⟩

def entryWindow (e : Word) : Nat := field e.toNat 57 48
def entryOffset (e : Word) : Nat := field e.toNat 47 0
def entryBlkLog (e : Word) : Nat := field e.toNat 55 52
def entryLedger (e : Word) : Nat := field e.toNat 23 0

/-- Reserved bits of an entry by kind (R157). -/
def entryReservedOk (e : Word) : Bool :=
  let w := e.toNat
  match entryKind e with
  | 0 => decide (w = 0)
  | 1 => decide (field w 60 58 = 0)
  | 2 => decide (field w 60 58 = 0)
  | 3 => decide (field w 60 56 = 0 ∧ field w 51 24 = 0)
  | 4 => decide (field w 32 0 = 0)
  | _ => false

def Cur.entry (i : Cur) (k : Nat) : Word := i.table.getD k 0

def Cur.slotInfo (i : Cur) (k : Nat) : Option SlotInfo := match opInfo i.op with
  | some o => o.slots[k]?
  | none => none

def Cur.slotList (i : Cur) : List SlotInfo := match opInfo i.op with
  | some o => o.slots
  | none => []

/-- The tile of a slot, if the slot holds one. -/
def Cur.tileAt (i : Cur) (k : Nat) : Option TileRef :=
  if entryKind (i.entry k) = 4 then some (entryTile (i.entry k)) else none

/-- The tensor descriptor of a slot, once it has been read. -/
def Cur.descAt (i : Cur) (k : Nat) : Option TDesc := (i.descs.find? (fun e => decide (e.1 = k))).map (·.2)

/-- The slot whose role is the scale of slot k. -/
def Cur.slotOfRole (i : Cur) (r : Role) : Option Nat :=
  (List.range 8).find? (fun k => match i.slotInfo k with
    | some s => decide (s.role = r)
    | none => false)

def Cur.descOfRole (i : Cur) (r : Role) : Option TDesc := match i.slotOfRole r with
  | some k => i.descAt k
  | none => none

/-- The tile that TLOAD's and TSTORE's fields name (R164). -/
def Cur.fieldTile (i : Cur) : TileRef :=
  ⟨i.f 44 40, i.f 39 35, i.f 34 29 + 1, 32 * (i.f 28 26 + 1), i.f 25 18, i.is opTstore && i.b 45⟩

/-- TMOVE's source and destination (R165). -/
def Cur.moveSrc (i : Cur) : TileRef := ⟨i.f 95 91, i.f 51 47, i.f 85 80 + 1, 32 * (i.f 79 77 + 1), i.f 67 60, i.b 40⟩
def Cur.moveDst (i : Cur) : TileRef := ⟨i.f 90 86, i.f 46 42, i.f 76 71 + 1, 32 * (i.f 70 68 + 1), i.f 59 52, false⟩

/-- Elements of one tile row, where whole (R86). -/
def TileRef.n (t : TileRef) : Nat := t.width * 8 / fmtBits t.fmt
def TileRef.whole (t : TileRef) : Bool := decide (t.width * 8 % fmtBits t.fmt = 0)

/-- Bytes of one block in an MX tile row (R89). -/
def mxTileBlock (f : Nat) : Nat := 32 * fmtBits f / 8

/-- Capacity of a tile (R79). -/
def State.tileCap (s : State) (t : Nat) : Nat := match s.build with
  | .t12 => 0x4000
  | .t4 => if t < 8 then 0x1000 else 0x4000

/-- Static shape cases of one tile (R81, R84, R86, R89). -/
def State.tileShapeOk (s : State) (t : TileRef) : Bool :=
  decide (t.rows * t.width ≤ s.tileCap t.tile) && t.whole
    && (!fmtMx t.fmt || (decide (t.width % mxTileBlock t.fmt = 0) && decide (t.stile ≠ t.tile)))

/-! ## Descriptors (R27, R212) -/

def tdescDecode (bs : List Byte) : TDesc :=
  let w0 := leNat (bs.take 8)
  let w1 := leNat ((bs.drop 8).take 8)
  { window := field w0 57 48, offset := field w0 47 0, mxaxis := field w1 18 16, fmt := BitVec.ofNat 8 (field w1 15 8)
    space := field w1 7 4, rank := field w1 3 0
    ext := (List.range 8).map (fun k => leNat ((bs.drop (16 + 4 * k)).take 4))
    stride := (List.range 8).map (fun k => signedOf 64 (leNat ((bs.drop (48 + 8 * k)).take 8))) }

def sdescDecode (bs : List Byte) : SDesc :=
  let w0 := leNat (bs.take 8)
  let w1 := leNat ((bs.drop 8).take 8)
  let w2 := leNat ((bs.drop 16).take 8)
  { layer := BitVec.ofNat 16 (field w0 63 48), tag0 := BitVec.ofNat 16 (field w0 47 32), depth := field w0 31 16
    steer := field w0 7 6, selq := field w0 5 2, rate := field w1 31 0, rsize := field w2 43 32, rbase := field w2 19 0 }

/-- Reserved bits of a STREAM record (R212, R213). -/
def sdescReservedOk (bs : List Byte) : Bool :=
  let w0 := leNat (bs.take 8)
  let w1 := leNat ((bs.drop 8).take 8)
  let w2 := leNat ((bs.drop 16).take 8)
  decide (field w0 15 8 = 0 ∧ field w0 1 0 = 0 ∧ field w1 63 32 = 0 ∧ field w2 63 44 = 0 ∧ field w2 31 20 = 0)
    && (bs.drop 24).all (fun b => decide (b = 0))

def TDesc.f (d : TDesc) : Nat := d.fmt.toNat
def TDesc.e (d : TDesc) (k : Nat) : Nat := if k < d.rank then d.ext.getD k 1 else 1
def TDesc.s (d : TDesc) (k : Nat) : Int := d.stride.getD k 0
def TDesc.dims (d : TDesc) : List Nat := List.range d.rank
def TDesc.exts (d : TDesc) : List Nat := d.dims.map d.e
def TDesc.count (d : TDesc) : Nat := prodNat d.exts

/-- R29. -/
def TDesc.empty (d : TDesc) : Bool := d.exts.any (fun n => decide (n = 0))

/-- Bytes of a packed row (R31, R42). -/
def TDesc.rowBytes (d : TDesc) : Nat := d.e 0 * fmtBits d.f / 8

/-- E of R32, or the packed row of a sub-byte format (R38, R42). -/
def TDesc.unit (d : TDesc) : Nat := if fmtSubByte d.f then d.rowBytes else fmtBytes d.f

/-- Dimensions that count for R38 and R42: extent above 1, not the cell axis, not a packed dimension 0. -/
def TDesc.axes (d : TDesc) (skip : Option Nat) : List Nat :=
  d.dims.filter (fun k => decide (1 < d.e k) && decide (some k ≠ skip) && !(fmtSubByte d.f && decide (k = 0)))

/-- R42: the footprint [lo, hi]. -/
def TDesc.lo (d : TDesc) (skip : Option Nat) : Int :=
  (d.offset : Int) + sumInt ((d.axes skip).map (fun k => min 0 (d.s k * ((d.e k : Int) - 1))))

def TDesc.hi (d : TDesc) (skip : Option Nat) : Int :=
  (d.offset : Int) + sumInt ((d.axes skip).map (fun k => max 0 (d.s k * ((d.e k : Int) - 1)))) + d.unit - 1

def insertAxis (a : Nat × Nat) : List (Nat × Nat) → List (Nat × Nat)
  | [] => [a]
  | b :: t => if a.1 < b.1 then a :: b :: t else b :: insertAxis a t

/-- The axes by ascending |stride|, ties by dimension: (|stride|, dimension). -/
def TDesc.sortedAxes (d : TDesc) (skip : Option Nat) : List (Nat × Nat) :=
  (d.axes skip).foldl (fun l k => insertAxis ((d.s k).natAbs, k) l) []

/-- R38 over sorted axes: the dimension that fails, if one does. -/
def injFail (d : TDesc) (e : Nat) : Nat → List (Nat × Nat) → Option Nat
  | _, [] => none
  | span, (s, k) :: t => if s < span + e then some k else injFail d e (span + s * (d.e k - 1)) t

def TDesc.injFails (d : TDesc) (skip : Option Nat) : Option Nat := injFail d d.unit 0 (d.sortedAxes skip)

/-- R245: every comparison of R38 an equality. -/
def denseFrom (d : TDesc) (e : Nat) : Nat → List (Nat × Nat) → Bool
  | _, [] => true
  | span, (s, k) :: t => decide (s = span + e) && denseFrom d e (span + s * (d.e k - 1)) t

def TDesc.dense (d : TDesc) (skip : Option Nat) : Bool := denseFrom d d.unit 0 (d.sortedAxes skip)

def overlaps (a b : Int × Int) : Bool := decide (a.1 ≤ b.2 ∧ b.1 ≤ a.2)

/-- R40: descriptors identical in OFFSET, RANK, every used EXTENT and STRIDE, and element size. -/
def TDesc.same (a b : TDesc) : Bool :=
  decide (a.offset = b.offset ∧ a.rank = b.rank ∧ a.exts = b.exts ∧ fmtBits a.f = fmtBits b.f)
    && a.dims.all (fun k => decide (a.s k = b.s k))

/-! ## Operands -/

/-- The cell axis of an operand's slot (R107, R106, R214). -/
def Cur.cellAxis (i : Cur) (k : Nat) : Option Nat :=
  let rec1 := fun (slot : Nat) =>
    if i.is opPerm then axisField (if slot = 0 then i.f 14 11 else i.f 10 7)
    else if i.is opRot then axisField (i.f 38 35)
    else none
  let base := match i.slotInfo k with
    | some ⟨.scaleOf j, _, _⟩ => j
    | some ⟨.amaxOf j, _, _⟩ => j
    | _ => k
  match i.descAt k with
  | some d =>
    if d.space ≠ 1 then none
    else if i.is opSblock then (if 1 < i.cells.length ∧ 0 < d.rank then some (d.rank - 1) else none)
    else rec1 base
  | none => none

/-- The last SOPEN of queue q in cell g that is decoded, has not retired and stands before instruction i. -/
def State.openBefore (s : State) (c : Nat) (i : Cur) (g q : Nat) : Option Cur :=
  (((s.ctx c).cur.takeWhile (fun j => decide (j.n ≠ i.n))).filter (fun j =>
    j.is opSopen && decide (j.f 51 48 = q) && j.cells.contains g)).getLast?

/-- DIR of the queue an SBLOCK extends in a cell: of an SOPEN decoded before it, or of the queue (R214). -/
def State.queueDir (s : State) (c : Nat) (i : Cur) (q g : Nat) : Bool := match s.openBefore c i g q with
  | some j => j.b 41
  | none => (s.queue g q).dir

/-- The block is a write operand: its queue has DIR = 1 in some engaged cell (DEDUCED, log 135). -/
def State.blockDir (s : State) (c : Nat) (i : Cur) : Bool := i.cells.any (s.queueDir c i (i.f 47 44))

/-- Whether the operand of a role is written. -/
def roleWrites (r : Role) (dir : Bool) (scaleWritten : Nat → Bool) : Bool :=
  match r with
  | .dst | .amaxOf _ | .scratch | .spos | .inv | .hist | .idx | .val | .gdst => true
  | .scaleOf k => scaleWritten k
  | .block => dir
  | _ => false

def State.slotWrites (s : State) (c : Nat) (i : Cur) (k : Nat) : Bool :=
  let dir := i.is opSblock && s.blockDir c i
  match i.slotInfo k with
  | some x => roleWrites x.role dir (fun j => match i.slotInfo j with
      | some y => roleWrites y.role dir (fun _ => false)
      | none => false)
  | none => false

/-- Operands written in place whatever NONATOMIC holds (R127, R214). -/
def Cur.inPlace (i : Cur) (k : Nat) : Bool :=
  i.nonatomic || i.is opSblock || (match i.slotInfo k with
    | some ⟨.scratch, _, _⟩ => true
    | _ => false)

def Cur.isGlobal (i : Cur) (k : Nat) : Bool := match i.slotInfo k with
  | some ⟨.gsrc, _, _⟩ => true
  | some ⟨.gdst, _, _⟩ => true
  | _ => false

/-- Tensor operands in slot order. -/
def Cur.tensors (i : Cur) : List (Nat × TDesc) := i.descs

/-- Whether a data slot is in MX format (tensor or tile). -/
def Cur.slotFmt (i : Cur) (k : Nat) : Nat := match i.descAt k, i.tileAt k with
  | some d, _ => d.f
  | none, some t => t.fmt
  | none, none => 0

/-- Extents of a data slot; a tile counts as ⟨n, rows⟩ (R173). -/
def Cur.slotExts (i : Cur) (k : Nat) : List Nat := match i.descAt k, i.tileAt k with
  | some d, _ => d.exts
  | none, some t => [t.n, t.rows]
  | none, none => []

def Cur.slotSpace (i : Cur) (k : Nat) : Nat := match i.descAt k with
  | some d => d.space
  | none => 1

/-- Any operand of the instruction in a stack window. -/
def Cur.hasStack (i : Cur) : Bool := i.descs.any (fun e => decide (e.2.space = 0) && !i.isGlobal e.1)

/-- Size of the staging buffer of R112. -/
def permBuffer (bits : Nat) (mx : Bool) : Nat :=
  let n := min 256 (2048 / bits)
  2 * (n * (n * bits / 8)) + (if mx then 0x2000 else 0)

/-- Side of a block (R111). -/
def blockSide (bits : Nat) : Nat := min 256 (2048 / bits)

/-- The staging bytes at SBUF that the instruction uses in each engaged cell, as an interval (R112, R126, R168 to R175). -/
def Cur.buffer (i : Cur) : Option (Int × Int) :=
  let mk := fun (n : Nat) => some ((i.sbuf : Int), (i.sbuf : Int) + n - 1)
  let byFmt := fun (a b : Nat) =>
    mk (permBuffer (max (fmtBits (i.slotFmt a)) (fmtBits (i.slotFmt b))) (fmtMx (i.slotFmt a) || fmtMx (i.slotFmt b)))
  if i.is opPerm then (if i.slotSpace 0 = 0 ∧ i.slotSpace 1 = 0 then byFmt 0 1 else none)
  else if i.is opRot || i.is opCvt || i.is opReblock then (if i.hasStack then byFmt 0 1 else none)
  else if i.is opAmax then (if i.slotSpace 0 = 0 then byFmt 0 0 else none)
  else if [opGather, opScatter, opBucket, opSortk].contains i.op then (if i.hasStack then mk 0x20000 else none)
  else if i.is opRget || i.is opRput then mk 0x20000
  else if i.is opReshard then byFmt 0 2
  else none

/-- Number of positions of an index operand (R123). -/
def Cur.positions (i : Cur) : Nat := match i.descOfRole .index with
  | some d => d.count
  | none => 0

/-- Whether a CVT's write takes the combine path (R39, R173). -/
def Cur.combinePath (i : Cur) : Bool :=
  i.is opCvt && decide (i.combine ≠ 0) && (match i.descAt 1 with
    | some d => (d.injFails none).isSome && !d.empty
    | none => false)

end Sys2Proof.Machine
end

