-- ==== Sys2Proof/Machine/Validate.lean ====
section
/-!
DEFINITION. Decode steps D1 to D7 (R159), the nine steps of R54, the static SHAPE cases of R84 with those of each
instruction, and the staging held by open queues (R211). Every check is a function from the state and the decoded
instruction to the first fault it finds.
-/
namespace Sys2Proof.Machine

def mkFault (code stage step : Nat) (slot dim : Option Nat) : FaultRec :=
  { code := code, stage := stage, step := step, slot := slot, dim := dim }

def decFault (code step : Nat) (slot : Option Nat) : FaultRec := mkFault code 1 step slot none
def valFault (code step : Nat) (slot dim : Option Nat) : FaultRec := mkFault code 2 step slot dim
def staticFault (slot dim : Option Nat) : FaultRec := mkFault fcShape 2 0xA slot dim

def failIf (b : Bool) (f : FaultRec) : Option FaultRec := if b then some f else none

/-- The first failure of a list of checks. -/
def firstFail (l : List (Option FaultRec)) : Option FaultRec := l.findSome? id

/-! ## D1 to D3 -/

def checkD1 (i : Cur) : Option FaultRec := match opInfo i.op with
  | none => some (decFault fcFormat 1 none)
  | some o => failIf (o.reserved.any (fun r => decide (i.f r.1 r.2 ≠ 0))) (decFault fcFormat 1 none)

/-- A code that an element may have (R55, R56). -/
def fmtData (f : Nat) : Bool := fmtKnown f && decide (f ≠ 0x40)

def checkD2 (i : Cur) : Option FaultRec :=
  failIf (decide (i.round = 3) || (i.is opTmove && (!fmtData i.moveSrc.fmt || !fmtData i.moveDst.fmt)))
    (decFault fcFormat 2 none)

/-- R155, R368. -/
def State.cselOk (s : State) (i : Cur) : Bool :=
  decide (i.smask ≠ 0) && decide (i.smask < 2 ^ s.nSlices) && decide (i.cfirst + i.ccount ≤ 64)
    && i.cells.all (fun g => !s.cellDown g)

/-- A cell axis value that R168 does not reserve. -/
def axisFieldOk (v : Nat) : Bool := decide (v < 8 ∨ v = 0xF)

def Cur.valuesOk (i : Cur) : Bool :=
  (!i.is opPerm || (axisFieldOk (i.f 14 11) && axisFieldOk (i.f 10 7)))
    && (!i.is opRot || axisFieldOk (i.f 38 35))
    && decide (i.combine < 6)
    && (!i.is opCarousel || decide (i.f 47 42 ≠ 0))
    && !(i.is opRput && decide (3 ≤ i.combine) && !i.acc)

/-- Pairs that the instruction names follow at most one binding (R198). -/
def State.bindOk (s : State) (c : Nat) (i : Cur) : Bool :=
  if i.is opSwait || i.is opSsignal then (s.semPair c (i.f 119 110)).isSome
  else if i.is opSopen then (s.semPair c (i.f 40 31)).isSome
  else true

def State.checkD3 (s : State) (c : Nat) (i : Cur) : Option FaultRec :=
  failIf (!i.valuesOk || (decide (i.infoFmt ≠ .c) && !s.cselOk i) || !s.bindOk c i) (decFault fcBounds 3 none)

/-! ## D4 to D7 -/

def Cur.otWin (i : Cur) : Nat := i.f 95 86
def Cur.otOff (i : Cur) : Nat := i.f 85 52 * 64

/-- A record read through a window that must grant FETCH (R46, R54 step 2, D4). -/
def State.fetchCheck (s : State) (c w off len : Nat) (mk : Nat → FaultRec) : Option FaultRec :=
  let e := s.winEff c w
  if !e.valid || !e.fetch then some (mk fcProtect)
  else if !s.winConsistent e || decide (e.limit < off + len) then some (mk fcBounds)
  else if !e.resident then some { mk fcResidency with win := some w }
  else none

/-- The stack controller of some piece of a record has dropped ready for good, so the read ends under R264. -/
def State.stackDead (s : State) (k : Nat) : Bool := !bitAt s.pwr.ctrlOk.toNat k

def State.fetchTimeout (s : State) (c w off stage step : Nat) : Option FaultRec :=
  let e := s.winEff c w
  let k := (e.xlate e.current off).1
  failIf (s.stackDead k) { mkFault fcTimeout stage step none none with port := some k }

/-- The unit holds the window's entry. -/
def State.cached (s : State) (c w : Nat) : Bool := (tabGet none (s.ctx c).win.cache w).isSome

/-- The entries that translation of some windows uses: their own, and those of the peer windows they follow (R42, R253). -/
def State.entriesOf (s : State) (c : Nat) (ws : List Nat) : List (Nat × Nat) :=
  (ws.flatMap (fun w => (c, w) :: (s.follow c w).toList)).eraseDups

/-- Those of them that the unit does not hold. -/
def State.missing (s : State) (c : Nat) (ws : List Nat) : List (Nat × Nat) := (s.entriesOf c ws).filter (fun o => !s.cached o.1 o.2)

/-- The same for the read of a window entry that the unit does not hold. -/
def State.entryTimeout (s : State) (c w stage step : Nat) : Option FaultRec :=
  firstFail ((s.missing c [w]).map (fun o =>
    let k := (s.winAddr o.1 o.2).1
    failIf (s.stackDead k) { mkFault fcTimeout stage step none none with port := some k }))

/-- A record of the descriptor fetcher: its window's entry, the checks, the read itself. -/
def State.fetchFault (s : State) (c w off len stage step : Nat) (slot : Option Nat) : Option FaultRec :=
  firstFail [ s.entryTimeout c w stage step, s.fetchCheck c w off len (fun k => mkFault k stage step slot none)
            , s.fetchTimeout c w off stage step ]

def State.checkD4 (s : State) (c : Nat) (i : Cur) : Option FaultRec := s.fetchFault c i.otWin i.otOff 64 1 4 none

def State.readTable (s : State) (c : Nat) (i : Cur) : List Word :=
  let e := s.winEff c i.otWin
  (List.range 8).map (fun k => BitVec.ofNat 64 (leNat (s.winRead e e.current (i.otOff + 8 * k) 8)))

def checkD5 (i : Cur) : Option FaultRec :=
  firstFail ((List.range 8).map (fun k => failIf (!entryReservedOk (i.entry k)) (decFault fcFormat 5 (some k)))
    ++ (List.range 8).map (fun k =>
      failIf (decide (entryKind (i.entry k) = 3) && decide (entryBlkLog (i.entry k) = 15)) (decFault fcBounds 5 (some k))))

/-- The KIND a slot takes (R157, R158). -/
def slotKindOk (x : SlotInfo) (kind : Nat) : Bool :=
  match kind with
  | 0 => !x.required
  | 1 => (!(x.role matches .stream) && !(x.role matches .ledgerOf _))
  | 2 => (x.role matches .stream)
  | 3 => (x.role matches .ledgerOf _)
  | 4 => x.tile
  | _ => false

def checkD6 (i : Cur) : Option FaultRec :=
  firstFail ((List.range 8).map (fun k =>
    let kind := entryKind (i.entry k)
    failIf (match i.slotInfo k with
      | some x => !slotKindOk x kind
      | none => decide (kind ≠ 0)) (decFault fcShape 6 (some k))))

/-- R80. -/
def State.checkD7 (s : State) (i : Cur) : Option FaultRec :=
  match s.build with
  | .t12 => none
  | .t4 => firstFail ((List.range 8).map (fun k => match i.tileAt k with
      | some t => failIf (decide (8 ≤ t.tile) || (fmtMx t.fmt && decide (8 ≤ t.stile))) (decFault fcBounds 7 (some k))
      | none => none))

/-! ## R54, steps 1 and 2 -/

/-- Slots whose entry names a record (KIND 1 and 2). -/
def Cur.recordSlots (i : Cur) : List Nat :=
  (List.range 8).filter (fun k => decide (entryKind (i.entry k) = 1 ∨ entryKind (i.entry k) = 2))

def recordLen (kind : Nat) : Nat := if kind = 2 then 64 else 128

def checkStep1 (i : Cur) : Option FaultRec :=
  firstFail (i.recordSlots.map (fun k => failIf (decide (entryOffset (i.entry k) % 64 ≠ 0)) (valFault fcAlign 1 (some k) none)))

def State.checkStep2 (s : State) (c : Nat) (i : Cur) : Option FaultRec :=
  firstFail (i.recordSlots.map (fun k =>
    let e := i.entry k
    s.fetchFault c (entryWindow e) (entryOffset e) (recordLen (entryKind e)) 2 2 (some k)))

def State.readRecord (s : State) (c : Nat) (e : Word) : List Byte :=
  let w := s.winEff c (entryWindow e)
  s.winRead w w.current (entryOffset e) (recordLen (entryKind e))

/-- The descriptors of the table, as read once at decode (R160). -/
def State.readDescs (s : State) (c : Nat) (i : Cur) : List (Nat × TDesc) :=
  (List.range 8).filterMap (fun k =>
    if entryKind (i.entry k) = 1 then some (k, tdescDecode (s.readRecord c (i.entry k))) else none)

def State.readStream (s : State) (c : Nat) (i : Cur) : Option SDesc :=
  if entryKind (i.entry 0) = 2 then some (sdescDecode (s.readRecord c (i.entry 0))) else none

/-! ## Step 3 -/

/-- R28: bits [63:47] of a stride all equal; ignored for a cell axis and for dimension 0 of extent 1 (R33, R107). -/
def strideOk (d : TDesc) (skip : Option Nat) (k : Nat) : Bool :=
  decide (some k = skip) || (decide (k = 0) && decide (d.e 0 = 1)) || decide (-(2 ^ 47 : Int) ≤ d.s k ∧ d.s k < (2 ^ 47 : Int))

def Cur.checkStep3At (i : Cur) (k : Nat) : Option FaultRec :=
  match i.descAt k with
  | none => none
  | some d =>
    if d.rank < 1 ∨ 8 < d.rank ∨ 2 ≤ d.space then some (valFault fcBounds 3 (some k) none)
    else match d.dims.find? (fun j => !strideOk d (i.cellAxis k) j) with
      | some j => some (valFault fcBounds 3 (some k) (some j))
      | none => failIf (decide (2 ^ 48 < d.count)) (valFault fcBounds 3 (some k) none)

/-- R213, step 3. -/
def State.checkStream3 (s : State) (c : Nat) (i : Cur) : Option FaultRec :=
  match i.stream with
  | none => none
  | some d =>
    let bs := s.readRecord c (i.entry 0)
    firstFail
      [ failIf (decide (d.depth < 1 ∨ 4096 < d.depth) || decide (d.rate = 0) || decide (d.steer = 3) || !sdescReservedOk bs)
          (valFault fcBounds 3 (some 0) none)
      , failIf (decide (d.steer ≠ 0) && (i.b 41 || (decide (d.steer = 2) && decide (d.selq = i.f 51 48))))
          (valFault fcShape 3 (some 0) none) ]

def State.checkStep3 (s : State) (c : Nat) (i : Cur) : Option FaultRec :=
  firstFail ((List.range 8).map i.checkStep3At ++ [s.checkStream3 c i])

/-! ## Step 4 -/

/-- R61: the scale (or amax) tensor's RANK and extents follow from the blocked axis. -/
def blockedShape (a : TDesc) (exts : List Nat) (axis : Nat) : Bool :=
  decide (a.rank = exts.length) && (List.range exts.length).all (fun k =>
    if k = axis then decide (a.e k * 32 = exts.getD k 0) else decide (a.e k = exts.getD k 0))

/-- FORMAT cases of one slot by its role (R28, R55, R56, R61, R76, R122, R127, R143, R144). -/
def Cur.roleFormat (i : Cur) (k : Nat) (x : SlotInfo) : Bool :=
  match x.role with
  | .scaleOf j =>
    let mx := fmtMx (i.slotFmt j) && (i.descAt j).isSome
    match i.descAt k, i.descAt j with
    | some a, some d => !mx || decide (a.f ≠ 0x40) || !blockedShape a d.exts d.mxaxis
    | some _, none => true
    | none, _ => mx
  | .amaxOf j =>
    match i.descAt k with
    | some a => !(decide (a.f = 0x01) || decide (a.f = 0x02)) || !blockedShape a (i.slotExts j) a.mxaxis
        || decide ((i.slotExts j).length ≤ a.mxaxis)
    | none => false
  | .index => match i.descAt k with
    | some a => !(decide (a.f = 0x01) || decide (a.f = 0x03) || decide (a.f = 0x20))
    | none => false
  | .spos | .inv | .hist | .idx => match i.descAt k with
    | some a => decide (a.f ≠ 0x01)
    | none => false
  | .scratch => match i.descAt k with
    | some a => decide (a.f ≠ 0x20)
    | none => false
  | .keys => fmtMx (i.slotFmt k) || decide (i.slotFmt k = 0x40)
  | .val => match i.descAt k with
    | some a => decide (a.f ≠ i.slotFmt 0)
    | none => false
  | _ => false

/-- FORMAT cases of R28 and R56 that every tensor operand meets. -/
def Cur.descFormat (i : Cur) (k : Nat) : Bool :=
  match i.descAt k, i.slotInfo k with
  | some d, some x =>
    !fmtKnown d.f || (decide (d.f = 0x40) && !(x.role matches .scaleOf _))
      || (fmtMx d.f && (decide (d.rank ≤ d.mxaxis) || decide (d.e d.mxaxis % 32 ≠ 0)))
  | _, _ => false

/-- FORMAT cases that belong to an instruction (R106, R107, R128, R134, R164, R169, R174, R179). -/
def Cur.opFormat (i : Cur) (k : Nat) : Bool :=
  let mxCell := match i.descAt k with
    | some d => fmtMx d.f && decide (some d.mxaxis = i.cellAxis k)
    | none => false
  let tileBad := match i.tileAt k with
    | some t => !fmtData t.fmt
    | none => false
  tileBad
    || ((i.is opTload || i.is opTstore) && decide (k = 0) && !fmtData i.fieldTile.fmt)
    || ((i.is opPerm || i.is opRot) && decide (k < 2) && mxCell)
    || (i.is opRot && ((decide (k < 2) && fmtMx (i.slotFmt k)) || (decide (k = 1) && decide (i.slotFmt 0 ≠ i.slotFmt 1))))
    || ((i.is opGather || i.is opScatter) && (decide (k = 0 ∨ k = 2)) && (match i.descAt k with
        | some d => fmtMx d.f && decide (d.mxaxis = i.axis)
        | none => false))
    || (decide (3 ≤ i.combine) && (i.is opScatter || i.is opCvt)
        && (match i.slotInfo k with
            | some ⟨.src, _, _⟩ => fmtMx (i.slotFmt k) && (i.is opScatter || i.combinePath)
            | some ⟨.dst, _, _⟩ => fmtMx (i.slotFmt k) && (i.is opScatter || i.combinePath)
            | _ => false))
    || (i.is opReblock && decide (k < 2) && (!fmtMx (i.slotFmt k) || (decide (k = 1) && decide (i.slotExts 0 ≠ i.slotExts 1))))
    || (i.is opSblock && decide (k = 0) && decide (i.f 43 36 ≠ 0) && !fmtData (i.f 43 36))
    || ((i.is opReshard) && ((decide (k = 0 ∨ k = 2) && fmtMx (i.slotFmt k)) || (decide (k = 2) && decide (i.slotFmt 0 ≠ i.slotFmt 2))))
    || (i.is opRget && ((decide (k = 0 ∨ k = 3) && fmtMx (i.slotFmt k)) || (decide (k = 3) && decide (i.slotFmt 0 ≠ i.slotFmt 3))))
    || (i.is opRput && ((decide (k = 0 ∨ k = 2) && fmtMx (i.slotFmt k)) || (decide (k = 2) && decide (i.slotFmt 0 ≠ i.slotFmt 2))))

/-- The dimension that a FORMAT names: MXAXIS, where its extent is no multiple of 32 (R28, R402). -/
def Cur.formatDim (i : Cur) (k : Nat) : Option Nat := match i.descAt k with
  | some d => if fmtMx d.f ∧ d.mxaxis < d.rank ∧ d.e d.mxaxis % 32 ≠ 0 then some d.mxaxis else none
  | none => none

def checkStep4 (i : Cur) : Option FaultRec :=
  let n := max 1 i.slotList.length
  firstFail ((List.range n).map (fun k =>
    failIf (i.descFormat k || (match i.slotInfo k with
      | some x => i.roleFormat k x
      | none => false) || i.opFormat k) (valFault fcFormat 4 (if i.slotList.isEmpty then none else some k) (i.formatDim k))))

/-! ## Static SHAPE cases (R84) -/

/-- A descriptor against a tile shape (R86, R87): the dimension that does not fit. -/
def tileMismatch (d : TDesc) (t : TileRef) (trn : Bool) (cells : Nat) (store : Bool) : Option Nat :=
  let e0 := if trn then t.rows else t.n
  let e1 := if trn then t.n else t.rows
  if d.e 0 ≠ e0 then some 0
  else if d.e 1 ≠ e1 ∨ (d.rank = 1 ∧ trn) then some 1
  else if d.e 2 ≠ cells ∧ (d.e 2 ≠ 1 ∨ (store ∧ 1 < cells)) then some 2
  else (List.range 8).find? (fun k => decide (3 ≤ k) && decide (d.e k ≠ 1))

def State.staticTileIo (s : State) (i : Cur) : Option FaultRec :=
  let t := i.fieldTile
  let store := i.is opTstore
  if !s.tileShapeOk t then some (staticFault none none)
  else match i.descAt 0 with
    | none => none
    | some d => match tileMismatch d t (i.b 46) i.cells.length store with
      | some k => some (staticFault (some 0) (some k))
      | none => none

/-- The shape a TMOVE or TRANS2D destination must have (R91). -/
def tilePair (a b : TileRef) (trn : Bool) : Bool :=
  if trn then decide (b.rows = a.n) && decide (b.width * 8 = a.rows * fmtBits b.fmt)
  else decide (b.rows = a.rows) && decide (b.width * 8 = a.n * fmtBits b.fmt)

def State.staticTmove (s : State) (i : Cur) : Option FaultRec :=
  failIf (!s.tileShapeOk i.moveSrc || !s.tileShapeOk i.moveDst || !tilePair i.moveSrc i.moveDst (i.b 41)) (staticFault none none)

/-- Tile entries of a table (R84, R89). -/
def State.staticTiles (s : State) (i : Cur) : Option FaultRec :=
  firstFail ((List.range 8).map (fun k => match i.tileAt k with
    | some t => failIf (!s.tileShapeOk t) (staticFault (some k) none)
    | none => none))

/-- R103, R104. A rank-2 operand stands as a rank-3 one with batch extent 1 (DESIGN CHOICE, log 141). -/
def staticTrans2d (i : Cur) : Option FaultRec :=
  let batchBad := fun (k : Nat) => match i.descAt k with
    | some d => decide (d.space = 0) || !(decide (d.rank = 2) || decide (d.rank = 3))
    | none => false
  let ex := fun (k : Nat) => (i.slotExts k) ++ (if (i.slotExts k).length = 2 then [1] else [])
  let a := ex 0
  let b := ex 1
  firstFail
    [ failIf (batchBad 0) (staticFault (some 0) none), failIf (batchBad 1) (staticFault (some 1) none)
    , failIf (decide (b ≠ [a.getD 1 0, a.getD 0 0, a.getD 2 0])
        || (decide (i.descAt 0 = none ∨ i.descAt 1 = none) && decide (a.getD 2 1 ≠ 1 ∨ b.getD 2 1 ≠ 1)))
        (staticFault (some 1) none)
    , (match i.tileAt 0, i.tileAt 1 with
        | some t, some u => failIf (!tilePair t u true) (staticFault (some 1) none)
        | _, _ => none) ]

/-- R107, R108, R168. -/
def staticPerm (i : Cur) : Option FaultRec :=
  match i.descAt 0, i.descAt 1 with
  | some a, some b =>
    let r := b.rank
    let cs := axisField (i.f 14 11)
    let cd := axisField (i.f 10 7)
    let n := i.cells.length
    firstFail
      [ failIf (decide (a.rank ≠ b.rank)) (staticFault (some 1) none)
      , failIf (!(List.range r).all (fun k => (List.range r).any (fun j => decide (i.axmap j = k)))) (staticFault none none)
      , ((List.range r).find? (fun k => decide (b.e k ≠ a.e (i.axmap k)))).map (fun k => staticFault (some 1) (some k))
      , failIf (cs.isSome && (decide (a.space = 0) || decide (cs.any (fun k => decide (a.rank ≤ k ∨ a.e k ≠ n))))) (staticFault (some 0) cs)
      , failIf (cd.isSome && (decide (b.space = 0) || decide (cd.any (fun k => decide (b.rank ≤ k ∨ b.e k ≠ n))))) (staticFault (some 1) cd)
      , failIf (decide (a.space = 1 ∧ b.space = 1) && decide (cs.isSome ≠ cd.isSome)) (staticFault (some 1) none)
      , failIf (decide (a.space = 1 ∧ b.space = 0) && cs.isNone && decide (1 < n)) (staticFault (some 1) none) ]
  | _, _ => none

/-- R106, R169. -/
def staticRot (i : Cur) : Option FaultRec :=
  match i.descAt 0, i.descAt 1 with
  | some a, some b =>
    let cax := axisField (i.f 38 35)
    let n := i.cells.length
    let bx := i.f 42 40
    firstFail
      [ failIf (decide (a.rank ≤ i.axis)) (staticFault (some 0) none)
      , failIf (i.b 43 && (decide (a.rank ≤ bx) || decide (bx = i.axis))) (staticFault (some 0) none)
      , failIf (decide (a.rank ≠ b.rank)) (staticFault (some 1) none)
      , ((List.range a.rank).find? (fun k => decide (a.e k ≠ b.e k))).map (fun k => staticFault (some 1) (some k))
      , failIf (cax.isSome && decide (a.space = 0)) (staticFault (some 0) none)
      , failIf (cax.isSome && decide (b.space = 0)) (staticFault (some 1) none)
      , failIf (cax.any (fun k => decide (a.rank ≤ k ∨ a.e k ≠ n))) (staticFault (some 0) cax)
      , failIf (decide (a.space = 1 ∧ b.space = 0) && cax.isNone && decide (1 < n)) (staticFault (some 1) none) ]
  | _, _ => none

/-- Scratch of the size R127 asks for. -/
def scratchBad (d : Option TDesc) (need : Nat) : Bool := match d with
  | some a => decide (a.rank ≠ 1) || decide (a.space ≠ 0) || decide (a.e 0 < need)
  | none => false

def extsMatch (a b : TDesc) (axis n : Nat) : Option Nat :=
  (List.range (max a.rank b.rank)).find? (fun k => if k = axis then decide (a.e k ≠ n) else decide (a.e k ≠ b.e k))

/-- R128, R129. -/
def staticGather (i : Cur) : Option FaultRec :=
  match i.descAt 0, i.descAt 1, i.descAt 2 with
  | some a, some x, some d =>
    firstFail
      [ failIf (decide (a.rank ≤ i.axis)) (staticFault (some 0) none)
      , failIf (decide (a.rank ≠ d.rank)) (staticFault (some 2) none)
      , (extsMatch d a i.axis i.positions).map (fun k => staticFault (some 2) (some k))
      , failIf (decide (i.axis = 0) && (fmtSubByte a.f || fmtSubByte d.f)) (staticFault (some 0) none)
      , failIf (decide (x.space ≠ d.space) || (decide (a.space = 1) && decide (d.space = 0))) (staticFault (some 2) none) ]
  | _, _, _ => none

/-- R127, R132, R137, R138, R170. -/
def staticScatter (i : Cur) : Option FaultRec :=
  match i.descAt 0, i.descAt 1, i.descAt 2 with
  | some a, some x, some d =>
    let c := i.cells.length
    let allStack := decide (a.space = 0 ∧ x.space = 0 ∧ d.space = 0)
    let allCell := decide (a.space = 1 ∧ x.space = 1 ∧ d.space = 1)
    firstFail
      [ failIf (decide (d.rank ≤ i.axis)) (staticFault (some 2) none)
      , failIf (decide (a.rank ≠ d.rank)) (staticFault (some 2) none)
      , (extsMatch a d i.axis i.positions).map (fun k => staticFault (some 0) (some k))
      , failIf (!allStack && !allCell) (staticFault (some 2) none)
      , failIf (allStack && decide (2 ^ 24 < i.positions)) (staticFault (some 1) none)
      , failIf (allCell && decide (4096 < i.positions)) (staticFault (some 1) none)
      , failIf (decide ((i.descAt 3).isSome ≠ decide (d.space = 0))) (staticFault (some 3) none)
      , failIf (scratchBad (i.descAt 3) (i.positions * 16 + c * c * 4)) (staticFault (some 3) none) ]
  | _, _, _ => none

/-- Bucket count, capacity and layout of BUCKET (R171). -/
def Cur.bCount (i : Cur) : Nat := i.f 51 36 + 1
def Cur.bCap (i : Cur) : Nat := i.f 35 11
def Cur.bPadded (i : Cur) : Bool := i.b 10

/-- R141. -/
def staticBucket (i : Cur) : Option FaultRec :=
  let n := i.positions
  let b := i.bCount
  let spos := if i.bPadded then b * i.bCap else n
  let vec := fun (k size : Nat) => match i.descAt k with
    | some d => decide (d.rank ≠ 1) || decide (d.e 0 ≠ size)
    | none => false
  firstFail
    [ failIf (decide (2 ^ 24 < n)) (staticFault (some 0) none)
    , failIf (decide (2 ^ 24 < i.bCap) || (i.bPadded && decide (i.bCap = 0)) || decide (2 ^ 31 < b * i.bCap)) (staticFault none none)
    , failIf (vec 1 spos) (staticFault (some 1) none), failIf (vec 2 n) (staticFault (some 2) none)
    , failIf (vec 3 b) (staticFault (some 3) none)
    , ((List.range 4).find? (fun k => decide (i.slotSpace k ≠ 0))).map (fun k => staticFault (some k) none)
    , failIf (scratchBad (i.descAt 4) (i.cells.length * b * 4)) (staticFault (some 4) none) ]

/-- K of SORTK (R172). -/
def Cur.kCount (i : Cur) : Nat := i.f 46 23 + 1

/-- R144, R145, R172. IDX and VAL have the keys' RANK (DEDUCED, log 111). -/
def staticSortk (i : Cur) : Option FaultRec :=
  match i.descAt 0 with
  | none => none
  | some a =>
    let n := a.e 0
    let out := fun (k : Nat) => match i.descAt k with
      | some d => decide (d.rank ≠ a.rank) || decide (d.e 0 ≠ i.kCount) || decide (d.e 1 ≠ a.e 1)
      | none => false
    let mixed := [1, 2].any (fun k => match i.descAt k with
      | some d => decide (d.space ≠ a.space)
      | none => false)
    firstFail
      [ failIf (decide (2 < a.rank) || decide (2 ^ 24 < n) || decide (n < i.kCount)) (staticFault (some 0) none)
      , failIf (out 1) (staticFault (some 1) none), failIf (out 2) (staticFault (some 2) none)
      , failIf (mixed || (decide (a.space = 1) && decide (4096 < n))) (staticFault (some 1) none)
      , failIf (decide ((i.descAt 3).isSome ≠ decide (4096 < n))) (staticFault (some 3) none)
      , failIf (scratchBad (i.descAt 3) (n * 16 + i.cells.length * 1024)) (staticFault (some 3) none) ]

/-- R137, R139, R173. -/
def staticCvt (i : Cur) : Option FaultRec :=
  let c := i.cells.length
  let stackDst := decide (i.slotSpace 1 = 0)
  firstFail
    [ failIf (decide (i.slotExts 0 ≠ i.slotExts 1)) (staticFault (some 1) none)
    , failIf (decide ((i.descAt 5).isSome ≠ (decide (i.combine ≠ 0) && stackDst))) (staticFault (some 5) none)
    , failIf (scratchBad (i.descAt 5) (if i.combinePath then prodNat (i.slotExts 1) * 16 + c * c * 4 else 0)) (staticFault (some 5) none)
    , failIf (i.combinePath && decide (2 ^ 24 < prodNat (i.slotExts 1))) (staticFault (some 1) none) ]

/-- Extents of one cell's part of a block (R214). -/
def partExts (d : TDesc) (cells : Nat) : List Nat := if 1 < cells then d.exts.dropLast else d.exts

/-- The format on the link (R176). -/
def Cur.afmt (i : Cur) : Nat := if i.f 43 36 = 0 then i.slotFmt 0 else i.f 43 36

/-- Tokens of one cell's part (R215): 128 B of elements each, and with an MX AFMT one token of scale bytes after each. -/
def partTokens (d : TDesc) (cells afmt : Nat) : Nat :=
  prodNat (partExts d cells) * fmtBits afmt / 1024 * (if fmtMx afmt then 2 else 1)

/-- An MX AFMT puts its scale bytes on the link; AFMT = 0 sends an MX block as stored, without scales. -/
def Cur.linkFmt (i : Cur) : Nat := if i.f 43 36 = 0 then fmtElem (i.slotFmt 0) else i.f 43 36

/-- R214, R215; W = 128 B is no multiple of the MXFP6 block of R89. -/
def staticSblock (i : Cur) : Option FaultRec :=
  match i.descAt 0 with
  | none => none
  | some d =>
    let c := i.cells.length
    let bits := prodNat (partExts d c) * fmtBits i.linkFmt
    firstFail
      [ failIf (decide (1 < c) && decide (d.e (d.rank - 1) ≠ c ∧ d.e (d.rank - 1) ≠ 1)) (staticFault (some 0) (some (d.rank - 1)))
      , failIf (decide (bits % 1024 ≠ 0) || decide (2 ^ 20 < partTokens d c i.linkFmt)) (staticFault (some 0) none)
      , failIf (fmtMx i.linkFmt && decide (128 % mxTileBlock i.linkFmt ≠ 0)) (staticFault (some 0) none) ]

/-- R176, R231: all 64 cells of each slice; in every engaged cell the queue's DIR and STEER from an SOPEN decoded before, or from the queue.
That the region lies in staging is a state case (R176). -/
def State.staticCarousel (s : State) (c : Nat) (i : Cur) : Option FaultRec :=
  let q := i.f 51 48
  let bad := i.cells.any (fun g => match s.openBefore c i g q with
    | some j => j.b 41 || j.stream.any (fun d => decide (d.steer ≠ 0))
    | none => decide ((s.queue g q).st ≠ .closed) && ((s.queue g q).dir || decide ((s.queue g q).sd.steer ≠ 0)))
  failIf (decide (i.cfirst ≠ 0 ∨ i.ccount ≠ 64) || bad) (staticFault none none)

/-- Block size and entry count of a Ledger reference for the tensor of slot k (R158). -/
def Cur.ledgerOf (i : Cur) (k : Nat) : Nat × Nat × Nat :=
  let e := match i.slotOfRole (.ledgerOf k) with
    | some j => i.entry j
    | none => 0
  let blk := 65536 * 2 ^ entryBlkLog e
  let bytes := match i.descAt k with
    | some d => d.count * fmtBits d.f / 8
    | none => 0
  (entryLedger e, blk, ceilDiv bytes blk)

/-- R304, R305: extents and spaces of the fabric instructions. -/
def staticFabric (i : Cur) : Option FaultRec :=
  let gl := fun (k : Nat) => failIf (decide (i.slotSpace k ≠ 0)) (staticFault (some k) none)
  if i.is opReshard then
    firstFail [gl 0, gl 2, failIf (decide (i.slotExts 0 ≠ i.slotExts 2)) (staticFault (some 2) none)]
  else if i.is opRget then
    match i.descAt 0, i.descAt 2, i.descAt 3 with
    | some a, some x, some d =>
      firstFail
        [ gl 0, failIf (decide (a.rank ≤ i.axis)) (staticFault (some 0) none)
        , failIf (decide (a.rank ≠ d.rank)) (staticFault (some 3) none)
        , (extsMatch d a i.axis i.positions).map (fun k => staticFault (some 3) (some k))
        , failIf (decide (i.axis = 0) && fmtSubByte a.f) (staticFault (some 0) none)
        , failIf (decide (x.space ≠ d.space)) (staticFault (some 3) none) ]
    | _, _, _ => none
  else
    match i.descAt 0, i.descAt 1, i.descAt 2 with
    | some a, some x, some d =>
      firstFail
        [ gl 2, failIf (decide (d.rank ≤ i.axis)) (staticFault (some 2) none)
        , failIf (decide (a.rank ≠ d.rank)) (staticFault (some 2) none)
        , (extsMatch a d i.axis i.positions).map (fun k => staticFault (some 0) (some k))
        , failIf (decide (x.space ≠ a.space)) (staticFault (some 1) none)
        , failIf (decide (2 ^ 24 < i.positions)) (staticFault (some 1) none)
        , failIf (decide (a.space = 1) && decide (4096 < i.positions)) (staticFault (some 1) none) ]
    | _, _, _ => none

/-- The static cases of an instruction. -/
def State.checkStatic (s : State) (c : Nat) (i : Cur) : Option FaultRec :=
  match s.staticTiles i with
  | some f => some f
  | none =>
    match i.op with
    | 0x10 => s.staticTileIo i
    | 0x11 => s.staticTileIo i
    | 0x12 => s.staticTmove i
    | 0x20 => staticTrans2d i
    | 0x21 => staticPerm i
    | 0x22 => staticRot i
    | 0x30 => staticGather i
    | 0x31 => staticScatter i
    | 0x32 => staticBucket i
    | 0x33 => staticSortk i
    | 0x40 => staticCvt i
    | 0x51 => staticSblock i
    | 0x53 => s.staticCarousel c i
    | 0x80 => staticFabric i
    | 0x81 => staticFabric i
    | 0x82 => staticFabric i
    | _ => none

/-! ## Step 5: windows and permissions -/

/-- Whether some register of the peer makes its window a follower too (R253). -/
def State.followOk (s : State) (c w : Nat) : Bool × Bool :=
  match s.follow c w with
  | none => (true, true)
  | some (pc, pw) =>
    let e := s.winLook c w
    let p := s.winLook pc pw
    ((s.follow pc pw).isNone, decide (e.base0 = p.base0 ∧ e.base1 = p.base1 ∧ e.stks = p.stks ∧ e.limit = p.limit))

def State.checkStep5At (s : State) (c : Nat) (i : Cur) (k : Nat) : Option FaultRec :=
  match i.descAt k with
  | none => none
  | some d =>
    if d.space ≠ 0 ∨ i.isGlobal k then none
    else
      let e := s.winEff c d.window
      let w := s.slotWrites c i k
      let scratch := match i.slotInfo k with
        | some ⟨.scratch, _, _⟩ => true
        | _ => false
      let fo := s.followOk c d.window
      if !e.valid || (w && !e.write) || ((!w || scratch) && !e.read) || (w && !e.aside && !i.inPlace k)
          || (w && (s.follow c d.window).isSome) || !fo.1 then some (valFault fcProtect 5 (some k) none)
      else failIf (!s.winConsistent e || !fo.2) (valFault fcBounds 5 (some k) none)

/-- Step 5; after an abort decision GEN_ABORTED comes in the place of PROTECT, except for an instruction that RUN restarts (R179, R307). -/
def State.checkStep5 (s : State) (c : Nat) (i : Cur) : Option FaultRec :=
  let g := (s.ctx c).gen
  firstFail (failIf (i.is opReshard && !(g.isOpen && g.fab) && decide (g.member ≠ .aborted ∨ g.abortAt = some i.n)) (valFault fcProtect 5 none none)
    :: (List.range 8).map (s.checkStep5At c i))

/-! ## Step 6: alignment (R31 to R33) -/

/-- The dimension whose stride is misaligned, or none with the flag set for OFFSET. -/
def alignFail (d : TDesc) (skip : Option Nat) : Option (Option Nat) :=
  let a : Int := if d.space = 0 then 64 else 32
  if (d.offset : Int) % a ≠ 0 then some none
  else
    let bad := fun (k : Nat) =>
      if some k = skip then false
      else if k = 0 then
        if fmtSubByte d.f then decide (d.s 0 ≠ 1) || decide (d.e 0 % fmtGroup d.f ≠ 0)
        else decide (d.e 0 ≠ 1) && decide (d.s 0 < 0 ∨ (d.s 0 ≠ fmtBytes d.f ∧ d.s 0 % a ≠ 0))
      else decide (1 < d.e k) && decide (d.s k % a ≠ 0)
    (d.dims.find? bad).map some

def Cur.checkStep6At (i : Cur) (k : Nat) : Option FaultRec :=
  match i.descAt k with
  | none => none
  | some d => if d.empty then none else (alignFail d (i.cellAxis k)).map (fun dim => valFault fcAlign 6 (some k) dim)

def checkStep6 (i : Cur) : Option FaultRec := firstFail ((List.range 8).map i.checkStep6At)

/-! ## Step 7: bounds -/

def State.checkStep7At (s : State) (c : Nat) (i : Cur) (k : Nat) : Option FaultRec :=
  match i.descAt k with
  | none => none
  | some d =>
    if d.empty then none
    else
      let sk := i.cellAxis k
      let (lo, hi) := (d.lo sk, d.hi sk)
      let bad :=
        if i.isGlobal k then
          let (ent, blk, n) := i.ledgerOf k
          let repl := bitAt s.fab.ledger.toNat 63
          decide (2 ^ 24 < ent + n) || (repl && decide (2 ^ 23 < ent + n)) || decide (lo < 0) || decide ((n * blk : Nat) ≤ hi)
        else if d.space = 0 then decide (lo < 0) || decide ((s.winEff c d.window).limit ≤ hi)
        else decide (lo < 0x80000) || decide (0xFFFFF < hi)
      failIf bad (valFault fcBounds 7 (some k) none)

/-- The shadow of a Carousel region (R231). -/
def shadowStart (d : TDesc) : Int := ((roundUp (d.hi none + 1).toNat 4096 : Nat) : Int)

def State.checkStep7 (s : State) (c : Nat) (i : Cur) : Option FaultRec :=
  let ring := match i.stream with
    | some d => decide (d.rsize ≠ 0) && (decide (d.rbase % 4096 ≠ 0) || decide (d.rbase < 0x80000 ∨ 0x100000 < d.rbase + d.rsize * 4096))
    | none => false
  let buf := match i.buffer with
    | some b => decide (0xFFFFF < b.2)
    | none => false
  let shadow := i.is opCarousel && (match i.descAt 0 with
    | some d => decide (d.space = 1) && decide (0xFFFFF < shadowStart d + (d.hi none - d.lo none))
    | none => false)
  firstFail ((List.range 8).map (s.checkStep7At c i)
    ++ [ failIf ring (valFault fcBounds 7 (some 0) none), failIf shadow (valFault fcBounds 7 (some 0) none)
       , failIf buf (valFault fcBounds 7 none none) ])

/-! ## Step 8: injectivity and overlap -/

/-- Cells a block's cell dimension spreads over; a Carousel region has none (R214, R230). -/
def Block.parts (b : Block) : Nat := if b.fromCarousel then 1 else b.cells

/-- Staging bytes an open queue holds in its cell (R211). -/
def Queue.held (q : Queue) : List (Int × Int) :=
  if q.st = .closed then []
  else
    let ring := if q.sd.rsize = 0 then [] else [((q.sd.rbase : Int), (q.sd.rbase : Int) + q.sd.rsize * 4096 - 1)]
    let part := fun (b : Block) =>
      if b.desc.space = 1 ∧ !b.desc.empty ∧ b.done < b.tokens then
        let sk := if 1 < b.parts then some (b.desc.rank - 1) else none
        [(b.desc.lo sk, b.desc.hi sk)]
      else []
    let car := match q.carousel with
      | some k => [(k.desc.lo none, k.desc.hi none), (shadowStart k.desc, shadowStart k.desc + (k.desc.hi none - k.desc.lo none))]
      | none => []
    ring ++ q.blocks.flatMap part ++ car

/-- Staging held by the open queues of a cell, except queue `but`. -/
def State.heldStaging (s : State) (g : Nat) (but : Option Nat) : List (Int × Int) :=
  (List.range 16).flatMap (fun q => if some q = but then [] else (s.queue g q).held)

/-- An engaged cell whose held staging overlaps an interval. -/
def State.heldIn (s : State) (i : Cur) (but : Option Nat) (iv : Int × Int) : Option Nat :=
  i.cells.find? (fun g => (s.heldStaging g but).any (overlaps iv))

def State.heldClash (s : State) (i : Cur) (but : Option Nat) (iv : Int × Int) : Bool := (s.heldIn i but iv).isSome

/-- The main data destination, which alone takes the combine path (R39). -/
def Cur.mainDst (i : Cur) (k : Nat) : Bool := match i.slotInfo k with
  | some ⟨.dst, _, _⟩ => true
  | some ⟨.gdst, _, _⟩ => true
  | _ => false

def State.injectAt (s : State) (c : Nat) (i : Cur) (k : Nat) : Option FaultRec :=
  match i.descAt k with
  | none => none
  | some d =>
    if d.empty ∨ s.slotWrites c i k = false then none
    else match d.injFails (i.cellAxis k) with
      | none => none
      | some j =>
        let allowed := i.combine ≠ 0 ∧ i.mainDst k ∧ fmtBits d.f ≠ 6
        if allowed then none else some (valFault fcAlias 8 (some k) (some j))

/-- PERM and ROT that move no element (R109). -/
def Cur.movesNothing (i : Cur) : Bool :=
  if i.is opPerm then (List.range ((i.descAt 1).map (·.rank) |>.getD 0)).all (fun k => decide (i.axmap k = k) && !i.permRev k)
  else if i.is opRot then
    let n : Int := ((i.descAt 0).map (fun d => d.e i.axis) |>.getD 1 : Nat)
    decide (signedOf 22 (i.f 34 13) % max 1 n = 0) && !(i.b 43 && decide (i.f 12 7 ≠ 0)) && !i.b 39
  else true

/-- Whether two tensor operands overlap in a way that raises ALIAS (R40, R109). -/
def State.pairAlias (s : State) (c : Nat) (i : Cur) (a b : Nat × TDesc) : Bool :=
  let (j, d) := a
  let (k, e) := b
  let wj := s.slotWrites c i j
  let wk := s.slotWrites c i k
  let hit := overlaps (d.lo (i.cellAxis j), d.hi (i.cellAxis j)) (e.lo (i.cellAxis k), e.hi (i.cellAxis k))
  if d.empty || e.empty || !(wj || wk) || !hit then false
  else if d.space = 1 ∧ e.space = 1 then true
  else if d.space = 0 ∧ e.space = 0 ∧ !i.isGlobal j ∧ !i.isGlobal k then
    decide (d.window = e.window) && ((wj && wk)
      || (i.inPlace (if wj then j else k) && !(i.nonatomic && d.same e && i.movesNothing)))
  else false

/-- Step 8 of one operand: its injectivity, its overlap with each earlier operand, with staging that open queues hold, and with the
buffer at SBUF. ADD, MAX and MIN under ACC and NONATOMIC raise ALIAS in a SCATTER, not in a CVT (DESIGN CHOICE, log 143). -/
def State.checkStep8At (s : State) (c : Nat) (i : Cur) (k : Nat) : Option FaultRec :=
  match i.descAt k with
  | none => none
  | some d =>
    let at_ := valFault fcAlias 8 (some k) none
    let foot := (d.lo (i.cellAxis k), d.hi (i.cellAxis k))
    let staged := decide (d.space = 1) && !d.empty
    firstFail
      [ s.injectAt c i k
      , failIf (i.descs.any (fun a => decide (a.1 < k) && s.pairAlias c i a (k, d))) at_
      , failIf (staged && s.slotWrites c i k && s.heldClash i none foot) at_
      , failIf (staged && i.buffer.any (fun b => overlaps b foot)) at_
      , failIf (decide (k = 2) && i.is opScatter && i.acc && decide (3 ≤ i.combine) && i.nonatomic) at_ ]

/-- Step 8, operand by operand in slot order; the order of the tests of one operand, and which slot of a pair is named, are the model's
own (DEDUCED, log 25). Then the buffer and a stream's ring against the staging of open queues (R113, R126, R211). -/
def State.checkStep8 (s : State) (c : Nat) (i : Cur) : Option FaultRec :=
  firstFail ((List.range 8).map (s.checkStep8At c i)
    ++ [ failIf (i.buffer.any (s.heldClash i none)) (valFault fcAlias 8 none none)
       , failIf (i.stream.any (fun d => decide (d.rsize ≠ 0)
           && s.heldClash i (some (i.f 51 48)) (d.rbase, (d.rbase : Int) + d.rsize * 4096 - 1))) (valFault fcAlias 8 (some 0) none) ])

/-! ## Step 9 and the whole order -/

def State.checkStep9 (s : State) (c : Nat) (i : Cur) : Option FaultRec :=
  firstFail (i.descs.map (fun e =>
    failIf (decide (e.2.space = 0) && !i.isGlobal e.1 && !e.2.empty && !(s.winEff c e.2.window).resident)
      { valFault fcResidency 9 (some e.1) none with win := some e.2.window }))

/-- Any tensor operand has an extent of 0 (R29). -/
def Cur.anyEmpty (i : Cur) : Bool := i.descs.any (fun e => e.2.empty)

/-- Steps 5 to 9, which a resume and a synchronisation repeat (R160, R420). With an empty operand the instruction is checked up to and
including step 5, and then completes (R29). -/
def State.checkLate (s : State) (c : Nat) (i : Cur) : Option FaultRec :=
  if i.anyEmpty then s.checkStep5 c i
  else firstFail [s.checkStep5 c i, checkStep6 i, s.checkStep7 c i, s.checkStep8 c i, s.checkStep9 c i]

/-- R420: what a resume repeats. -/
def State.checkResume (s : State) (c : Nat) (i : Cur) : Option FaultRec :=
  firstFail [s.checkStatic c i, s.checkLate c i]

/-- Windows that decode and validation read through are cached from then on. -/
def State.touchWins (s : State) (c : Nat) (ws : List Nat) : State := (s.entriesOf c ws).foldl (fun s o => s.winTouch o.1 o.2) s

def Cur.windows (i : Cur) : List Nat :=
  (i.descs.filter (fun e => decide (e.2.space = 0) && !i.isGlobal e.1)).map (fun e => e.2.window)

def State.ledgerA (s : State) : Nat := field s.fab.ledger.toNat 55 52
def State.ledgerB (s : State) : Nat := field s.fab.ledger.toNat 59 56
def State.ledgerBase (s : State) : Nat := field s.fab.ledger.toNat 47 12 * 4096

/-- R297. -/
def State.ledgerOff (s : State) : Bool :=
  decide (s.ledgerA = s.ledgerB) || decide (s.capBytes s.ledgerA < s.ledgerBase + 0x8000000)
    || decide (s.capBytes s.ledgerB < s.ledgerBase + 0x8000000)

/-! ## Ledger entries (R298) -/

/-- Serial comparison of generations (R260). -/
def newerGen (w a b : Nat) : Bool :=
  let d := (a + (2 ^ w - b % 2 ^ w)) % 2 ^ w
  decide (1 ≤ d ∧ d < 2 ^ (w - 1))

structure Owner where
  node : BitVec 20
  ctx : Nat
  window : Nat
  slot : Nat
deriving DecidableEq, Repr

def ownerOf (w : Nat) : Owner := ⟨BitVec.ofNat 20 (field w 54 35), field w 34 29, field w 28 19, field w 18 0⟩

def State.ledgerCopy (s : State) (stack e : Nat) : Nat := leNat ((s.stack stack).read (s.ledgerBase + 8 * e) 8)

/-- Stack-local address of the 64 B that hold an entry. -/
def State.ledgerLine (s : State) (e : Nat) : Nat := s.ledgerBase + e / 8 * 64

/-- A copy is intact unless the last read of it ended in ERR (R260). -/
def State.copyOk (s : State) (k e : Nat) : Bool := !s.fab.ledgerBad.contains (k, s.ledgerLine e)

/-- The winning copy of an entry under R260, w = 8; none: DIVERGENT, or neither is intact. -/
def State.ledgerWin (s : State) (e : Nat) : Option Nat :=
  let a := s.ledgerCopy s.ledgerA e
  let b := s.ledgerCopy s.ledgerB e
  match s.copyOk s.ledgerA e, s.copyOk s.ledgerB e with
  | true, true =>
    if a = b then some a
    else if newerGen 8 (field a 62 55) (field b 62 55) then some a
    else if newerGen 8 (field b 62 55) (field a 62 55) then some b
    else none
  | true, false => some a
  | false, true => some b
  | false, false => none

/-- Who owns a block, or the fault of the lookup (R260, R264, R297, R300). -/
def State.lookup (s : State) (e : Nat) : Except Nat Owner :=
  if s.ledgerOff then .error fcOwnerMiss
  else match s.ledgerWin e with
    | none => .error (if s.copyOk s.ledgerA e ∨ s.copyOk s.ledgerB e then fcDivergent else fcTimeout)
    | some w => if bitAt w 63 then .ok (ownerOf w) else .error fcOwnerMiss

/-- The slices whose cells the instruction engages. -/
def Cur.slices (i : Cur) : List Nat := (i.cells.map (· / 64)).eraseDups

/-- Ledger entries that an instruction's references name, and in replicated mode their replicas: a destination block's is written too, and
a source block's serves a read whose primary does not answer (R301; DEDUCED, log 40). -/
def State.ledgerEntries (s : State) (i : Cur) : List Nat :=
  ([0, 2].filter i.isGlobal).flatMap (fun k =>
    let (ent, _, n) := i.ledgerOf k
    let l := (List.range n).map (fun j => ent + j)
    if bitAt s.fab.ledger.toNat 63 then l ++ l.map (· + 2 ^ 23) else l)

/-- The walker's reads of Ledger entries that the owner cache of an engaged slice does not hold (R300): aligned 64 B of both copies. -/
def State.ledgerReads (s : State) (i : Cur) : List (Nat × Nat) :=
  if s.ledgerOff then []
  else i.slices.flatMap (fun sl =>
    let miss := (s.ledgerEntries i).filter (fun e => !s.fab.ownerCache.contains (sl, e))
    ((miss.map (fun e => s.ledgerBase + e / 8 * 64)).eraseDups).flatMap (fun a => [(s.ledgerA, a), (s.ledgerB, a)]))

/-- The stacks that a read of the fetcher or the walker after step 4 needs and whose controllers are lost (R264). -/
def State.lateTimeout (s : State) (c : Nat) (i : Cur) : Option FaultRec :=
  firstFail (i.windows.map (fun w => s.entryTimeout c w 2 5)
    ++ (s.ledgerReads i).map (fun a => failIf (s.stackDead a.1) { mkFault fcTimeout 2 7 none none with port := some a.1 }))

/-- Decode and validation of a word: the instruction with its copies, and the first fault (R54, R159). -/
def State.decode (s : State) (c : Nat) (n : BitVec 32) (word : BitVec 128) : Cur :=
  let i : Cur := ⟨n, word, [], [], none, none, .ready, 0, 0, [], false, false, [], none⟩
  match firstFail [checkD1 i, checkD2 i, s.checkD3 c i] with
  | some f => { i with fault := some f }
  | none =>
    if i.infoFmt ≠ .d then { i with fault := s.checkStatic c i }
    else match s.checkD4 c i with
      | some f => { i with fault := some f }
      | none =>
        let j := { i with table := s.readTable c i }
        match firstFail [checkD5 j, checkD6 j, s.checkD7 j, checkStep1 j, s.checkStep2 c j] with
        | some f => { j with fault := some f }
        | none =>
          let k := { j with descs := s.readDescs c j, stream := s.readStream c j }
          { k with fault := firstFail [s.checkStep3 c k, checkStep4 k, s.checkStatic c k, s.lateTimeout c k, s.checkLate c k] }

end Sys2Proof.Machine
end

