-- ==== Sys2Proof/Machine/Operands.lean ====
section
/-!
DEFINITION. Every operand form as one kind of view: where element (i0, i1, …) of a tensor or tile lies and where its block
scale lies (R30, R31, R62, R78, R89, R107), the copy of elements from one view to another with conversion, passthrough and
reblocking (R64, R67), the per-block amax (R76), and the numbering of blocks that a halt counts in (R110, R111).
-/
namespace Sys2Proof.Machine

/-! ## Locations -/

inductive Place where
  | stack (w : Nat × Nat) (e : WinEntry) (region : Nat)  -- the context and window whose entry translates it
  | cell (g : Nat)
  | opFile (g : Nat)                                      -- T4: tiles 0 to 7 (R79)
deriving DecidableEq, Repr

/-- The bits of one element: the byte its lowest bit lies in, that bit, and how many there are. -/
structure Loc where
  place : Place
  byte : Nat
  bit : Nat
  bits : Nat
deriving DecidableEq, Repr

def State.peekAt (s : State) (p : Place) (off : Nat) : Byte := match p with
  | .stack _ e r => s.peek e r off
  | .cell g => (s.cell g).mem.get off
  | .opFile g => (s.cell g).opFile.get off

def State.pokeAt (s : State) (p : Place) (off : Nat) (b : Byte) : State := match p with
  | .stack _ e r => s.poke e r off b
  | .cell g => s.updCell g (fun x => { x with mem := x.mem.set off b })
  | .opFile g => s.updCell g (fun x => { x with opFile := x.opFile.set off b })

def Loc.span (l : Loc) : Nat := ceilDiv (l.bit + l.bits) 8

def State.readLoc (s : State) (l : Loc) : Nat :=
  field (leNat ((List.range l.span).map (fun k => s.peekAt l.place (l.byte + k)))) (l.bit + l.bits - 1) l.bit

def State.pokeList (s : State) (p : Place) (off : Nat) : List Byte → State
  | [] => s
  | b :: bs => (s.pokeAt p off b).pokeList p (off + 1) bs

/-- The element's bits replaced; its neighbours in the same byte keep theirs (R33). -/
def State.writeLoc (s : State) (l : Loc) (v : Nat) : State :=
  let old := leNat ((List.range l.span).map (fun k => s.peekAt l.place (l.byte + k)))
  let hole := old - field old (l.bit + l.bits - 1) l.bit * 2 ^ l.bit
  s.pokeList l.place l.byte (natLe l.span (hole + v % 2 ^ l.bits * 2 ^ l.bit))

/-- Writes in their order: where two windows map the same stack bytes and one instruction writes through both, each shared byte keeps
the later write of this order; R40 leaves open which (DESIGN CHOICE, log 116). -/
def State.writeLocs (s : State) (l : List (Loc × Nat)) : State := l.foldl (fun s e => s.writeLoc e.1 e.2) s

/-- The stack bytes a location covers. -/
def Loc.stackBytes (l : Loc) : List (Nat × Nat) := match l.place with
  | .stack _ e r => (List.range l.span).map (fun k => e.xlate r (l.byte + k))
  | .cell _ => []
  | .opFile _ => []

/-- The window whose entry translates a location. -/
def Loc.window (l : Loc) : Option (Nat × Nat) := match l.place with
  | .stack w _ _ => some w
  | _ => none

/-! ## Views -/

structure View where
  fmt : Nat
  ext : List Nat
  axis : Nat
  at_ : List Nat → Loc
  scaleAt : List Nat → Loc
  again : List Nat → Nat     -- which reading of the operand an index belongs to (R35, R120)
  scaleAgain : List Nat → Nat  -- the same of its scale operand, by block
  all : Bool := false        -- a reading serves the cells of every slice (R35)
  scaleAll : Bool := false
  scaleHere : Bool := false  -- the scales lie in the staging of the cell that carries out a unit (R107)

def View.mx (v : View) : Bool := fmtMx v.fmt

/-- With SPACE = 1 an engaged cell applies a descriptor to its own staging (R61, R87). -/
def Loc.inCell (l : Loc) (g : Nat) : Loc := match l.place with
  | .cell _ => { l with place := .cell g }
  | _ => l

/-- The view as the cell that carries out a unit has it. -/
def View.here (v : View) (g : Nat) : View := if v.scaleHere then { v with scaleAt := fun x => (v.scaleAt x).inCell g } else v

/-- The index of the block an element lies in (R62). -/
def View.blockIdx (v : View) (idx : List Nat) : List Nat := idx.set v.axis (idx.getD v.axis 0 / 32)

/-- Byte and bit of an element of a descriptor, its place chosen by the cell axis (R30, R31, R107). -/
def descLoc (d : TDesc) (skip : Option Nat) (place : List Nat → Place) (idx : List Nat) : Loc :=
  let dims := d.dims.filter (fun k => decide (some k ≠ skip) && !(fmtSubByte d.f && decide (k = 0)))
  let off := (d.offset : Int) + sumInt (dims.map (fun k => (idx.getD k 0 : Int) * d.s k))
  let b := if fmtSubByte d.f then idx.getD 0 0 * fmtBits d.f else 0
  ⟨place idx, off.toNat + b / 8, b % 8, fmtBits d.f⟩

/-- The entry a read operand uses: at the GEN its instruction has pinned (R252). -/
def State.readEntry (s : State) (c : Nat) (i : Cur) (w : Nat) : WinEntry :=
  let e := s.winEff c w
  match i.pins.find? (fun p => decide (p.1 = w)) with
  | some p => { e with gen := p.2 }
  | none => e

/-- Where a tensor operand's bytes lie for the cell of one rank (R44, R107). -/
def State.placeOf (s : State) (c : Nat) (i : Cur) (k : Nat) (d : TDesc) (cell : Nat) (idx : List Nat) : Place :=
  if d.space = 0 then
    if s.slotWrites c i k then
      let e := s.winEff c d.window
      .stack (c, d.window) e (e.region true (s.ctx c).gen.isOpen (i.inPlace k))
    else
      let e := s.readEntry c i d.window
      .stack (c, d.window) e e.current
  else match i.cellAxis k with
    | some a => .cell (i.cells.getD (idx.getD a 0) cell)
    | none => .cell cell

def State.tensorLoc (s : State) (c : Nat) (i : Cur) (k : Nat) (d : TDesc) (cell : Nat) (idx : List Nat) : Loc :=
  descLoc d (i.cellAxis k) (s.placeOf c i k d cell) idx

def Loc.nowhere : Loc := ⟨.cell 0, 0, 0, 0⟩

/-- Dimensions of stride 0 below which more than 256 KiB of data lies: the data is read again for each of their indices (R35). -/
def TDesc.rereads (d : TDesc) : List Nat :=
  d.dims.filter (fun k => decide (d.s k = 0) && decide (1 < d.e k) && !(fmtSubByte d.f && decide (k = 0))
    && decide (0x40000 * 8 < fmtBits d.f * prodNat (((List.range k).filter (fun j => decide (d.s j ≠ 0))).map d.e)))

/-- The number of the reading that an index belongs to. -/
def TDesc.again (d : TDesc) (idx : List Nat) : Nat :=
  (d.rereads.foldl (fun (a, w) k => (a + idx.getD k 0 * w, w * d.e k)) (0, 1)).1

/-- The index whose reading serves an index too: a dimension of stride 0 that is not read again counts as 0 (R35). -/
def TDesc.once (d : TDesc) (idx : List Nat) : List Nat :=
  idx.zipIdx.map (fun e => if d.s e.2 = 0 ∧ !(fmtSubByte d.f && decide (e.2 = 0)) ∧ !d.rereads.contains e.2 then 0 else e.1)

/-- A dimension of stride 0 whose data is read once for all its indices (R35). -/
def TDesc.broadcasts (d : TDesc) : Bool :=
  d.dims.any (fun k => decide (d.s k = 0) && decide (1 < d.e k) && !(fmtSubByte d.f && decide (k = 0)) && !d.rereads.contains k)

/-- The scale operand of slot k, with its slot (R61). -/
def Cur.scaleOf (i : Cur) (k : Nat) : Option (Nat × TDesc) :=
  (i.slotOfRole (.scaleOf k)).bind (fun j => (i.descAt j).map (fun d => (j, d)))

/-- A tensor operand with its scale operand (R61, R62). -/
def State.tensorView (s : State) (c : Nat) (i : Cur) (k : Nat) (d : TDesc) (cell : Nat) : View :=
  { fmt := d.f, ext := d.exts, axis := d.mxaxis
    at_ := s.tensorLoc c i k d cell
    scaleAt := fun idx => match i.scaleOf k with
      | some (j, sd) => s.tensorLoc c i j sd cell idx
      | none => Loc.nowhere
    again := d.again
    scaleAgain := fun idx => match i.scaleOf k with
      | some (_, sd) => sd.again idx
      | none => 0
    all := d.broadcasts
    scaleAll := match i.scaleOf k with
      | some (_, sd) => sd.broadcasts
      | none => false
    scaleHere := match i.scaleOf k with
      | some (j, sd) => decide (sd.space = 1) && (i.cellAxis j).isNone
      | none => false }

/-- Where a tile's bytes lie (R78, R79): its 16 KiB slot of cell memory, or on T4, for tiles 0 to 7, its 4 KiB of the operand file. -/
def Build.tileAt (b : Build) (cell t : Nat) : Place × Nat :=
  if b = .t4 ∧ t < 8 then (.opFile cell, t * 0x1000) else (.cell cell, t * 0x4000)

/-! ## Operand delivery (R94, R95) -/

/-- Bytes of a tile, from an offset of its slot on. -/
def Cell.tileBytes (x : Cell) (b : Build) (t off n : Nat) : List Byte := match b.tileAt 0 t with
  | (.opFile _, base) => x.opFile.read (base + off) n
  | (_, base) => x.mem.read (base + off) n

/-- Bytes written into a tile's slot. -/
def Cell.tileWrite (x : Cell) (b : Build) (t : Nat) (bs : List Byte) : Cell := match b.tileAt 0 t with
  | (.opFile _, base) => { x with opFile := x.opFile.write base bs }
  | (_, base) => { x with mem := x.mem.write base bs }

/-- A tile's bytes become undefined (R92). -/
def Cell.tileScramble (x : Cell) (b : Build) (t seed : Nat) : Cell := match b.tileAt 0 t with
  | (.opFile _, base) => { x with opFile := x.opFile.scramble base (base + 0x1000) seed }
  | (_, base) => { x with mem := x.mem.scramble base (base + 0x4000) seed }

/-- The latches and Crumb lines that hold a tile are dropped (R92, R94). -/
def Cell.dropTile (x : Cell) (t : Nat) : Cell :=
  { x with
    crumb := x.crumb.filter (fun l => decide (l.tile ≠ t))
    latches := x.latches.filter (fun e => match e.2 with
      | some l => decide (l.tile ≠ t)
      | none => true) }

/-- Every latch and the whole Crumb cache are invalid: a context switch (R93), the fencing of the cell (R94). -/
def Cell.dropAll (x : Cell) : Cell := { x with crumb := [], latches := [] }

/-- A tile has been written: its Crumb lines take the new bytes, and latches that hold it are invalid (R94, R95). -/
def Cell.wroteTile (x : Cell) (b : Build) (t : Nat) : Cell :=
  { x with
    crumb := x.crumb.map (fun l => if l.tile = t then { l with data := x.tileBytes b t (l.row * l.width) l.width } else l)
    latches := (x.dropTile t).latches }

/-- The execute engines that read tiles, each with its reuse latch (R15, R94; DEDUCED, log 105). Sprinkle's operands are tensors, so its
latch holds nothing. -/
def engTransposer : Nat := 0
def engConverter : Nat := 1

/-- A row comes from the Crumb cache: a hit becomes the line used last; a miss takes a line, in place of the one used least recently
once there are 16 (R95). -/
def Cell.crumbRead (x : Cell) (b : Build) (t : TileRef) (row : Nat) : Cell :=
  let mine := fun (l : CrumbLine) => decide (l.tile = t.tile ∧ l.row = row ∧ l.width = t.width)
  match x.crumb.find? mine with
  | some l => { x with crumb := l :: x.crumb.filter (fun y => !mine y) }
  | none => { x with crumb := (⟨t.tile, row, t.width, x.tileBytes b t.tile (row * t.width) t.width⟩ :: x.crumb).take 16 }

/-- An engine reads one vector of a tile: from its latch where the tag is the same; otherwise a row through the Crumb cache, on the
build that has one, or a column from the banks. The latch then holds it (R94, R95). -/
def Cell.readVector (x : Cell) (b : Build) (engine : Nat) (t : TileRef) (column : Bool) (index : Nat) : Cell :=
  let held := match tabGet none x.latches engine with
    | some l => decide (l.tile = t.tile ∧ l.column = column ∧ l.index = index ∧ l.rows = t.rows ∧ l.width = t.width)
    | none => false
  if held then x
  else
    let y := if column || decide (b ≠ .t12) then x else x.crumbRead b t index
    let data := if column then
        (List.range t.rows).flatMap (fun r => x.tileBytes b t.tile (r * t.width + index * fmtBits t.fmt / 8)
          (ceilDiv (index * fmtBits t.fmt % 8 + fmtBits t.fmt) 8))
      else x.tileBytes b t.tile (index * t.width) t.width
    { y with latches := tabSet none y.latches engine (some ⟨t.tile, column, index, t.rows, t.width, data⟩) }

/-- An engine reads the selected rows of a tile, row by row, or column by column where it selects any; and for an MX tile the same rows of
its scale tile. -/
def Cell.readTile (x : Cell) (b : Build) (engine : Nat) (t : TileRef) (columns : Bool) (sel : Nat → Bool) : Cell :=
  let rows := (List.range t.rows).filter sel
  let y := if fmtMx t.fmt then
      rows.foldl (fun x k => x.readVector b engine ⟨t.stile, 0, t.rows, 32, 0x40, false⟩ false k) x
    else x
  (if columns then (if rows.isEmpty then [] else List.range t.n) else rows).foldl (fun x k => x.readVector b engine t columns k) y

/-- A tile as the tensor ⟨n, rows⟩ (R78, R86, R89). -/
def tileView (bd : Build) (t : TileRef) (cell : Nat) : View :=
  { fmt := t.fmt, ext := [t.n, t.rows], axis := 0
    at_ := fun idx =>
      let b := idx.getD 0 0 * fmtBits t.fmt
      let p := bd.tileAt cell t.tile
      ⟨p.1, p.2 + idx.getD 1 0 * t.width + b / 8, b % 8, fmtBits t.fmt⟩
    scaleAt := fun idx =>
      let p := bd.tileAt cell t.stile
      ⟨p.1, p.2 + idx.getD 1 0 * 32 + idx.getD 0 0, 0, 8⟩
    again := fun _ => 0, scaleAgain := fun _ => 0 }

/-- The view of a data slot in one cell. -/
def State.slotView (s : State) (c : Nat) (i : Cur) (k cell : Nat) : View :=
  match i.tileAt k with
  | some t => tileView s.build t cell
  | none => match i.descAt k with
    | some d => s.tensorView c i k d cell
    | none => tileView s.build ⟨0, 0, 0, 32, 0x20, false⟩ cell

/-- All indices of a shape, dimension 0 fastest (R123). -/
def indices : List Nat → List (List Nat)
  | [] => [[]]
  | n :: t => (indices t).flatMap (fun r => (List.range n).map (fun k => k :: r))

def State.readVal (s : State) (v : View) (idx : List Nat) : Num :=
  let x := decodeElem (fmtElem v.fmt) (s.readLoc (v.at_ idx))
  if v.mx then scaleNum (s.readLoc (v.scaleAt (v.blockIdx idx))) x else x

/-! ## Copies -/

/-- A copy: each destination index takes a source index, or zero where none is given (R128). `cell` says which engaged cell carries out
a unit, `part` within which part of the copy repeated reads of one granule are made once (R35, R130), `run` which run of the destination
a unit lies in (R120), and `block` which of its cell's blocks, where the reads of a block take one ID (R272). -/
structure Job where
  src : View
  dst : View
  from_ : List Nat → Option (List Nat)
  cell : List Nat → Nat
  part : List Nat → Nat := fun _ => 0
  run : List Nat → Nat := fun _ => 0
  block : List Nat → Option Nat := fun _ => none
  trn : Bool := false        -- a tile load or store that transposes: every block is reblocked (R89)

/-- Destination indices in position order; for a block format each stands for the block it begins. -/
def Job.units (j : Job) : List (List Nat) :=
  if j.dst.mx then (indices j.dst.ext).filter (fun idx => decide (idx.getD j.dst.axis 0 % 32 = 0)) else indices j.dst.ext

/-- The elements a unit stands for. -/
def Job.members (j : Job) (u : List Nat) : List (List Nat) :=
  if j.dst.mx then (List.range 32).map (fun e => u.set j.dst.axis (u.getD j.dst.axis 0 + e)) else [u]

/-- R64: same MX format, and each destination block formed from exactly one source block. For a tile load or store with TRN the rule
of its own chapter is followed, that every block is reblocked (R89; DEDUCED, log 102). -/
def Job.passthrough (j : Job) : Bool :=
  !j.trn && j.src.mx && decide (j.src.fmt = j.dst.fmt) && j.units.all (fun u =>
    let from_ := (j.members u).map j.from_
    match from_ with
    | [] => true
    | a :: t => t.all (fun b => decide (a.map j.src.blockIdx = b.map j.src.blockIdx)))

/-- One access of an engaged cell: reads of one granule are made once within a part, by each slice or by one for all (R35). -/
structure Access where
  cell : Nat
  part : Nat × Nat
  loc : Loc
  all : Bool := false
  block : Option Nat := none
deriving DecidableEq

/-- Numbers to write, sticky bits, the exact source values of a part of a copy, its reads and its stores, how many free values it may
have used, and how many random numbers its cells have drawn. -/
structure Moved where
  writes : List (Loc × Nat)
  flags : BitVec 5
  values : List Num
  reads : List Access
  stores : List Access
  used : Nat
  drawn : Nat

def Moved.none : Moved := ⟨[], 0, [], [], [], 0, 0⟩

def Moved.append (a b : Moved) : Moved :=
  ⟨a.writes ++ b.writes, a.flags ||| b.flags, a.values ++ b.values, a.reads ++ b.reads, a.stores ++ b.stores, a.used + b.used,
    max a.drawn b.drawn⟩

/-- Plain numbers that one cell writes, after the reads named. -/
def Moved.plain (cell : Nat) (w : List (Loc × Nat)) (rd : List Loc) : Moved :=
  ⟨w, 0, [], rd.map (fun l => { cell := cell, part := (0, 0), loc := l }), w.map (fun e => { cell := cell, part := (0, 0), loc := e.1 }), 0, 0⟩

/-- How an instruction rounds: ROUND, SAT, and the generator of each cell (R70 to R72). -/
structure RoundBy where
  mode : Nat
  sat : Bool
  gen : Nat → SrGen

/-- The rounding that cell g uses for its k-th element. -/
def RoundBy.at_ (r : RoundBy) (g k : Nat) : Rnd := match r.mode with
  | 0 => .rne
  | 1 => .rtz
  | _ => .sr (Config.srRandom (r.gen g).seed g (r.gen g).pos ((r.gen g).drawn + k)).toNat

def Cur.roundBy (i : Cur) (s : State) (c : Nat) : RoundBy := ⟨i.round, i.sat, fun g => (s.cell g).gen c⟩

/-- The generators of the cells are seeded, at an instruction's start and when it resumes (R72). -/
def State.seedGens (s : State) (c : Nat) (i : Cur) : State :=
  i.cells.foldl (fun t g => t.updCell g (fun x => x.setGen c ⟨(s.ctx c).cfg.srSeed, i.n, 0⟩)) s

/-- The generators have given numbers. -/
def State.drawGens (s : State) (c : Nat) (cells : List Nat) (n : Nat) : State :=
  if n = 0 then s else cells.foldl (fun t g => t.updCell g (fun x =>
    x.setGen c { x.gen c with drawn := (x.gen c).drawn + n })) s

/-- The locations one source element is read from. -/
def View.locs (v : View) (idx : List Nat) : List Loc :=
  if v.mx then [v.at_ idx, v.scaleAt (v.blockIdx idx)] else [v.at_ idx]

/-- The accesses of a cell that read one source element, in part `part` of its copy. -/
def View.accesses (v : View) (g part : Nat) (block : Option Nat) (idx : List Nat) : List Access :=
  ⟨g, (part, v.again idx), v.at_ idx, v.all, block⟩
    :: (if v.mx then [⟨g, (part, v.scaleAgain (v.blockIdx idx)), v.scaleAt (v.blockIdx idx), v.scaleAll, block⟩] else [])

/-- One unit of a copy. -/
def State.moveUnit (s : State) (job : Job) (r : RoundBy) (pass : Bool) (num : Nat) (u : List Nat) : Moved :=
  let g := job.cell u
  let j := { job with src := job.src.here g, dst := job.dst.here g }
  let ms := j.members u
  let src := ms.map j.from_
  let reads := src.flatMap (fun o => match o with
    | some x => j.src.accesses g (j.part u) (j.block u) x
    | none => [])
  let values := src.filterMap (fun o => o.map (s.readVal j.src))
  let out := fun (w : List (Loc × Nat)) (f : BitVec 5) =>
    (⟨w, f, values, reads, w.map (fun e => { cell := g, part := (j.run u, 0), loc := e.1 }), 0, 0⟩ : Moved)
  if j.dst.mx then
    let sl := j.dst.scaleAt (j.dst.blockIdx u)
    if pass then
      let scale := match src.head? with
        | some (some x) => s.readLoc (j.src.scaleAt (j.src.blockIdx x))
        | _ => 0x7F
      out ((sl, scale) :: ms.map (fun m => (j.dst.at_ m, match j.from_ m with
        | some x => s.readLoc (j.src.at_ x)
        | none => 0))) 0
    else
      let v := src.map (fun o => match o with
        | some x => s.readVal j.src x
        | none => .fin false 0 0)
      let b := encodeBlock (fmtElem j.dst.fmt) (fun e => r.at_ g (num * 32 + e)) v
      out ((sl, b.1) :: (ms.zip b.2.1).map (fun e => (j.dst.at_ e.1, e.2))) b.2.2
  else match j.from_ u with
    | none => out [(j.dst.at_ u, 0)] 0
    | some x =>
      if j.src.fmt = j.dst.fmt then out [(j.dst.at_ u, s.readLoc (j.src.at_ x))] 0
      else
        let e := encodeElem j.dst.fmt (r.at_ g (num * 32)) r.sat (s.readVal j.src x)
        out [(j.dst.at_ u, e.1)] e.2

/-- The part of a copy whose destination units are selected. -/
def State.moveJob (s : State) (r : RoundBy) (j : Job) (sel : List Nat → Bool) : Moved :=
  let pass := j.passthrough
  let us := j.units.filter sel
  let m := us.zipIdx.foldl (fun a e => a.append (s.moveUnit j r pass e.2 e.1)) Moved.none
  { m with drawn := if r.mode = 2 then 32 * us.length else 0 }

/-- Sticky bits join CTX_CVT_FLAGS (R69). -/
def State.addFlags (s : State) (c : Nat) (f : BitVec 5) : State := s.updCtx c (fun x => { x with cvtFlags := x.cvtFlags ||| f })

/-- The per-tensor amax joins CTX_AMAX (R74). -/
def State.foldValues (s : State) (c : Nat) (l : List Num) : State :=
  s.updCtx c (fun x => { x with amax := foldAmax x.amax (amaxAll l) })

/-- One transfer: the cell that makes it first, with the block it makes it for, the window, and the granules it touches. -/
structure Transfer where
  cell : Nat
  block : Option Nat
  window : Nat × Nat
  grans : Tab Nat

/-- The transfers of a list of accesses: each slice's, window by window and part by part, with the granules they touch. A part is a
run of a block (R120), a window of an index instruction (R130), or one reading of a broadcast (R35), which one slice makes for all. -/
def transfers (l : List Access) : List Transfer :=
  let st := l.filterMap (fun a => a.loc.window.map (fun w => ((if a.all then none else some (a.cell / 64), w, a.part), a)))
  ((st.map (·.1)).eraseDups).filterMap (fun k =>
    let mine := (st.filter (fun e => decide (e.1 = k))).map (·.2)
    mine.head?.map (fun a => ⟨a.cell, a.block, k.2.1, touch (mine.flatMap (fun e => e.loc.stackBytes))⟩))

/-- Stack bytes of transfers, in whole granules (R37, R379). -/
def transferBytes (l : List Transfer) : Nat := sumNat (l.map (fun e => granBytes e.grans))

/-- A transfer's slice makes its requests; the reads of one block of a cell take one ID (R272). -/
def State.askTransfers (s : State) (c : Nat) (write : Bool) (l : List Transfer) : State :=
  l.foldl (fun t e => t.ask
    { write := write, by_ := .instr c, slice := e.cell / 64, window := some e.window
      group := e.block.map (fun b => (e.cell, 16 + c, b)) } e.grans) s

/-- The staging bytes a location covers: cell and byte. -/
def Loc.cellBytes (l : Loc) : List (Nat × Nat) := match l.place with
  | .cell g | .opFile g => (List.range l.span).map (fun k => (g, l.byte + k))
  | .stack _ _ _ => []

/-- What a cell writes into a cell of another slice crosses Crossway, from port p of its own slice to port p of the other, p being the
sender's number mod 2 (R115, R266; DESIGN CHOICE, log 114). -/
def State.crossMoves (s : State) (c : Nat) (l : List Access) : State :=
  let away := l.flatMap (fun a => (a.loc.cellBytes.filter (fun b => decide (b.1 / 64 ≠ a.cell / 64))).map (fun b =>
    ((2 * (a.cell / 64) + a.cell % 2, slicePort (b.1 / 64) a.cell), cellAddr b.1 b.2)))
  ((away.map (·.1)).eraseDups).foldl (fun t k =>
    t.crossSend (.instr c) k.1 k.2 ((away.filter (fun e => decide (e.1 = k))).map (·.2))) s

/-- The effects of moved data: bytes written, flags, amax, stack requests and the byte counter (DEDUCED, log 20). -/
def State.applyMoved (s : State) (c : Nat) (i : Cur) (m : Moved) : State :=
  let rd := transfers m.reads
  let wr := transfers m.stores
  let s1 := (s.writeLocs m.writes).addFlags c m.flags
  let s2 := if i.amacc then s1.foldValues c m.values else s1
  let s3 := ((s2.askTransfers c false rd).askTransfers c true wr).crossMoves c m.stores
  ((s3.addBytes c (transferBytes rd + transferBytes wr)).drawGens c i.cells m.drawn).bump (1 + m.used)

/-! ## Per-block amax (R76) -/

/-- Writes of the per-block amax tensor over the source view, for the blocks whose first element is selected, each with that element; an
amax tensor in staging without a cell axis lies in the cell that the block is dealt to (R107). -/
def State.amaxBlocks (s : State) (c : Nat) (i : Cur) (src : View) (cell : List Nat → Nat) (sel : List Nat → Bool) :
    List (List Nat × Loc × Nat) :=
  match i.slotOfRole (.amaxOf 0) with
  | none => []
  | some k => match i.descAt k with
    | none => []
    | some a => match floatFmt a.f with
      | none => []
      | some fm =>
        ((indices a.exts).filter (fun idx => sel (idx.set a.mxaxis (idx.getD a.mxaxis 0 * 32)))).map (fun idx =>
          let b := idx.getD a.mxaxis 0 * 32
          let x := idx.set a.mxaxis b
          let v := amaxAll ((List.range 32).map (fun e => s.readVal (src.here (cell x)) (idx.set a.mxaxis (b + e))))
          (x, s.tensorLoc c i k a (cell x) idx, encodeUp fm v))

/-! ## Blocks (R110, R111) -/

/-- Groups of source dimensions that fold into one. -/
structure Plan where
  groups : List (List Nat)
  inner : Nat                -- group of source dimension 0
  outer : Nat                -- group of destination dimension 0
  other : Nat                -- group the block's second side runs along
  side : Nat
deriving DecidableEq, Repr

/-- Bytes from one index of a folded group to the next group. -/
def groupBytes (d : TDesc) (dims : List Nat) : Int :=
  match dims with
  | [] => 0
  | k :: t =>
    let rest : Int := (prodNat (t.map d.e) : Nat)
    if k = 0 ∧ fmtSubByte d.f then (d.rowBytes : Int) * rest
    else (if k = 0 ∧ d.s 0 = 0 then 0 else d.s k) * (d.e k : Int) * rest

/-- Whether source dimension l + 1 folds onto the group that ends with l (R110). -/
def canFold (a b : TDesc) (ax : Nat → Nat) (rev : Nat → Bool) (fixed : List Nat) (group : List Nat) (l : Nat) : Bool :=
  match (List.range b.rank).find? (fun m => decide (ax m = l)) with
  | none => false
  | some m =>
    let dstGroup := group.filterMap (fun k => (List.range b.rank).find? (fun m => decide (ax m = k)))
    decide (l + 1 < a.rank) && decide (m + 1 < b.rank) && decide (ax (m + 1) = l + 1)
      && decide (a.s (l + 1) = groupBytes a group) && decide (b.s (m + 1) = groupBytes b dstGroup)
      && decide (rev m = rev (m + 1)) && !fixed.contains l && !fixed.contains (l + 1)

def foldGroups (can : List Nat → Nat → Bool) : Nat → Nat → List Nat → List (List Nat)
  | 0, _, g => [g]
  | n + 1, l, g => if can g l then foldGroups can n (l + 1) (g ++ [l + 1]) else g :: foldGroups can n (l + 1) [l + 1]

def planOf (a b : TDesc) (ax : Nat → Nat) (rev : Nat → Bool) (fixed : List Nat) : Plan :=
  let gs := foldGroups (canFold a b ax rev fixed) (a.rank - 1) 0 [0]
  let has := fun (k : Nat) => (gs.findIdx? (fun g => g.contains k)).getD 0
  let ga := has (ax 0)
  let next := ((List.range gs.length).find? (fun g => decide (0 < g) && decide (1 < prodNat ((gs.getD g []).map a.e)))).getD 0
  ⟨gs, 0, ga, if ga = 0 then next else ga, blockSide (max (fmtBits a.f) (fmtBits b.f))⟩

/-- Index of a source element within a group. -/
def groupIndex (a : TDesc) (dims idx : List Nat) : Nat :=
  (dims.foldl (fun (acc, w) k => (acc + idx.getD k 0 * w, w * a.e k)) (0, 1)).1

/-- The number of a source element's place when some groups are cut into sides of a block. -/
def Plan.number (p : Plan) (a : TDesc) (cut : List Nat) (idx : List Nat) : Nat :=
  (p.groups.zipIdx.foldl (fun (acc, w) e =>
    let n := prodNat (e.1.map a.e)
    let x := groupIndex a e.1 idx
    if cut.contains e.2 then (acc + x / p.side * w, w * ceilDiv n p.side) else (acc + x * w, w * n)) (0, 1)).1

/-- The number of the block a source element lies in; the unit's fixed order is the model's own (DESIGN CHOICE, log 21). -/
def Plan.blockNo (p : Plan) (a : TDesc) (idx : List Nat) : Nat := p.number a [p.inner, p.other] idx

/-- The run of a block's source row, and of its destination row, that a source element lies in (R112, R120). -/
def Plan.srcRun (p : Plan) (a : TDesc) (idx : List Nat) : Nat := p.number a [p.inner] idx
def Plan.dstRun (p : Plan) (a : TDesc) (idx : List Nat) : Nat := p.number a [p.outer] idx

end Sys2Proof.Machine
end

