-- ==== Sys2Proof/Machine/Setup.lean ====
section
/-!
DEFINITION. Cell setup (R20 step 3), which every instruction with cells shares: the waits for ownership, activations, PARK,
catch-up, pins and flips (R245, R252, R257, R335, R346), the state cases of R84, the pins taken, the implicit generation of
R162; then halting at a halt point (R420), and retirement with the marks of R255.
-/
namespace Sys2Proof.Machine

/-! ## Switching (R182, R257) -/

def State.ownedCells (s : State) (c : Nat) : List Nat :=
  (s.cells.filter (fun e => decide (e.2.owner = some c))).map (·.1)

/-- The context has been switched out of its cells and is in none of them again; it makes no progress (R182; DEDUCED, log 103). -/
def State.switchedOut (s : State) (c : Nat) : Bool := !(s.ctx c).spilled.isEmpty && (s.ownedCells c).isEmpty

def State.prioOf (s : State) (c : Nat) : Nat := field (s.ctx c).cfg.sched.toNat 3 0

/-- Contexts that wait at cell setup for a cell of another context. -/
def State.waitersFor (s : State) (g : Nat) : List Nat :=
  (List.range 64).filter (fun p => match s.head p with
    | some i => s.running p && decide (i.phase = .ready) && i.cells.contains g && decide ((s.cell g).owner ≠ some p)
    | none => false)

/-- CTX_SCHED.QUANTUM. -/
def State.quantum (s : State) (c : Nat) : Nat := field (s.ctx c).cfg.sched.toNat 47 32

/-- CTX_SCHED lets context c be switched out for waiting context p: of equal or higher priority once the quantum is over, and with QUANTUM 0
only of higher priority, at any time (R257). -/
def State.outranks (s : State) (c p : Nat) : Bool :=
  if s.quantum c = 0 then decide (s.prioOf c < s.prioOf p) else (s.ctx c).run.quantumOver && decide (s.prioOf c ≤ s.prioOf p)

/-- A switch is due: some context that waits for one of its cells may have it. -/
def State.switchDue (s : State) (c : Nat) : Bool := (s.ownedCells c).any (fun g => (s.waitersFor g).any (s.outranks c))

/-- The context's cells are its own, or free and with no record of it in the save area (R257, R259). -/
def State.ownsCells (s : State) (c : Nat) (i : Cur) : Bool :=
  i.cells.all (fun g => match (s.cell g).owner with
    | some o => decide (o = c)
    | none => !(s.ctx c).spilled.contains g)

/-- The activation that holds the slice purges it: instructions there are asked to halt (R116, R346). -/
def State.purging (s : State) (n : Nat) : Bool := (s.slice n).held && (match s.cfg.act with
  | some a => a.purge && decide (a.region = n)
  | none => false)

/-- An activation or re-imaging holds the slice back (R346, R371), or a boot bundle is loading (R349). -/
def State.sliceFree (s : State) (n : Nat) : Bool := !(s.slice n).held && !s.cfg.bootBusy

/-- Cells are powered and clocked: not in PARK, entering it or leaving it (R335), and the island is not in reset (R323). -/
def State.cellsPowered (s : State) (i : Cur) : Bool :=
  (i.cells.isEmpty || decide (s.clk.pwState = 0 ∨ s.clk.pwState = 1))
    && i.cells.all (fun g => !bitAt s.clk.islReset.toNat (g / 64))

/-- Windows that a write operand's aside region belongs to, with footprints. -/
def State.asideWrites (s : State) (c : Nat) (i : Cur) : List (Nat × Nat × TDesc) :=
  (i.descs.filter (fun e => decide (e.2.space = 0) && !i.isGlobal e.1 && s.slotWrites c i e.1 && !i.inPlace e.1
    && (s.winEff c e.2.window).aside)).map (fun e => (e.2.window, e.1, e.2))

/-- Every footprint the instruction writes into a stack window: window, slot, descriptor. -/
def State.stackWrites (s : State) (c : Nat) (i : Cur) : List (Nat × Nat × TDesc) :=
  (i.descs.filter (fun e => decide (e.2.space = 0) && !i.isGlobal e.1 && s.slotWrites c i e.1 && !e.2.empty)).map
    (fun e => (e.2.window, e.1, e.2))

/-- Windows read, which are pinned (R252). -/
def State.readWins (s : State) (c : Nat) (i : Cur) : List Nat :=
  if i.is opSblock then []
  else (i.descs.filter (fun e => decide (e.2.space = 0) && !i.isGlobal e.1 && !s.slotWrites c i e.1)).map (fun e => e.2.window)

/-- R245: intervals that lie wholly inside a dense footprint leave the record. -/
def WinRec.drop (r : WinRec) (lo hi limit : Nat) : WinRec :=
  let inside := fun (e : Nat × Nat) => decide (lo ≤ e.1 * 4096 ∧ min limit ((e.1 + e.2) * 4096) ≤ hi + 1)
  if r.all ∧ !(decide (lo = 0 ∧ limit ≤ hi + 1)) then r
  else
    let l := r.ivs.filter (fun e => !inside e)
    if l.isEmpty then WinRec.clean else { r with ivs := l, all := false }

/-- A footprint in an aside region that an instruction writes: the context and window, first and last byte, dense (R245). -/
structure AsidePart where
  home : Nat × Nat
  lo : Nat
  hi : Nat
  dense : Bool

/-- Every comparison of R38 is an equality (R245). -/
def TDesc.gapless (d : TDesc) (skip : Option Nat) : Bool := d.dense skip && (d.injFails skip).isNone && !d.empty

/-- The parts that an RPUT or RESHARD writes in windows of this node, block by block, under its fabric-wide generation (R302, R303; DEDUCED,
log 128). -/
def State.globalAside (s : State) (c : Nat) (i : Cur) : List AsidePart :=
  match i.slotOfRole .gdst, i.descOfRole .gdst with
  | some k, some d =>
    let (ent, blk, _) := i.ledgerOf k
    let lo := (d.lo none).toNat
    let hi := (d.hi none).toNat
    if d.empty || !((s.ctx c).gen.isOpen && (s.ctx c).gen.fab) then []
    else (List.range' (lo / blk) (hi / blk + 1 - lo / blk)).flatMap (fun b =>
      ((ent + b) :: (if bitAt s.fab.ledger.toNat 63 then [ent + b + 2 ^ 23] else [])).filterMap (fun e => match s.lookup e with
        | .ok o =>
          if o.node = s.fab.addr ∧ (s.winEff o.ctx o.window).aside then
            some ⟨(o.ctx, o.window), o.slot * blk + (max lo (b * blk) - b * blk), o.slot * blk + (min hi (b * blk + blk - 1) - b * blk),
              d.gapless none⟩
          else none
        | .error _ => none))
  | _, _ => []

/-- Every footprint that the instruction writes in an aside region of this node. -/
def State.asideParts (s : State) (c : Nat) (i : Cur) : List AsidePart :=
  (s.asideWrites c i).map (fun (w, k, d) =>
    let sk := i.cellAxis k
    ⟨(c, w), (d.lo sk).toNat, (d.hi sk).toNat, d.gapless sk⟩) ++ s.globalAside c i

/-- The records after the drops of one instruction's setup. Those of another context stay while its save window is not resident. -/
def State.dropDense (s : State) (c : Nat) (i : Cur) : State :=
  (s.asideParts c i).foldl (fun s p =>
    let (o, w) := p.home
    let r := s.winRec o w
    if r.st = .lag ∧ p.dense ∧ (o = c ∨ (s.saveWindow o).resident) then
      let r2 := r.drop p.lo p.hi (s.winEff o w).limit
      if r2 = r then s else s.putRec o w r2
    else s) s

/-- A window of the instruction waits for its catch-up (R245). -/
def State.lagWait (s : State) (c : Nat) (i : Cur) : Bool :=
  (s.asideParts c i).any (fun p => decide ((s.winRec p.home.1 p.home.2).st = .lag))

/-- The window whose contents a name shows: itself, or the followed one (R253). -/
def State.winHome (s : State) (c w : Nat) : Nat × Nat := (s.follow c w).getD (c, w)

/-- An instruction of some context is pinned to the region that is now the aside region of window w (R252). -/
def State.pinnedAside (s : State) (c w : Nat) : Bool :=
  let e := s.winEff c w
  (List.range 64).any (fun p => match s.head p with
    | some i => i.pins.any (fun pin => decide (s.winHome p pin.1 = (c, w)) && decide (pin.2.toNat % 2 ≠ e.current))
    | none => false)

def State.pinWait (s : State) (c : Nat) (i : Cur) : Bool := (s.asideParts c i).any (fun p => s.pinnedAside p.home.1 p.home.2)

/-- The translation hold of a flip (R242 step 2). -/
def State.flipHold (s : State) (c : Nat) (ws : List Nat) : Bool :=
  ws.any (fun w =>
    let (h, v) := s.winHome c w
    decide ((s.ctx h).gen.flip = .begun) && (s.ctx h).gen.writeSet.contains v)

/-- A PERM or ROT over a cell axis moves data between slices, through Crossway (R106, R115). -/
def Cur.crosses (i : Cur) : Bool :=
  (i.is opPerm || i.is opRot) && (i.cellAxis 1).isSome && decide (1 < (i.cells.map (· / 64)).eraseDups.length)

/-- What cell setup waits for, apart from activations. Stack operands and moves between slices need CROSS (R323). -/
def State.coreWaits (s : State) (c : Nat) (i : Cur) : Bool :=
  (!s.crossRuns && !i.windows.isEmpty) || (i.crosses && !s.targetRuns 12) || !s.ownsCells c i || !s.cellsPowered i || s.flipHold c (i.windows) || s.lagWait c i || s.pinWait c i

/-- The self-test of a RETURN isolates the home cell, which serves the position itself (R369, R370). -/
def Slice.testsHome (x : Slice) (pos : Nat) : Bool := x.svcGo && decide (x.svcOp = 2 ∧ x.svcCell.toNat = pos) && (x.spareOf pos).isNone

/-- A service command re-images the slice to change the cell that serves the position (R371). -/
def State.swapsCell (s : State) (g : Nat) : Bool := match s.cfg.act with
  | some a => a.service && decide (a.region = g / 64 ∧ (s.slice (g / 64)).svcCell.toNat = g % 64)
  | none => false

/-- No frame of the cell's slice is being rewritten (R365), and no self-test has the cell. -/
def State.cellWhole (s : State) (g : Nat) : Bool := (s.region (g / 64)).mending.isEmpty && !(s.slice (g / 64)).testsHome (g % 64)

/-- The cell can be set up: no activation holds its slice, nor a rewrite or a self-test the cell. -/
def State.cellFree (s : State) (g : Nat) : Bool := s.sliceFree (g / 64) && s.cellWhole g

/-- The instruction waits at cell setup; nothing changes. -/
def State.setupWaits (s : State) (c : Nat) (i : Cur) : Bool := s.coreWaits c i || !(i.cells.all s.cellFree)

/-- The same for an instruction that had begun and has come to its halt point: an activation that purges its slice does not hold it back,
but asks it to halt (R116). -/
def State.haltWaits (s : State) (c : Nat) (i : Cur) : Bool :=
  s.coreWaits c i || !(i.cells.all (fun g => (s.sliceFree (g / 64) || s.purging (g / 64)) && s.cellWhole g))

/-! ## State cases (R84) -/

def setupFault (slot : Option Nat) (cell : Option Nat) : FaultRec :=
  { code := fcShape, stage := 3, slot := slot, cell := cell }

/-- A tile read finds the tile VALID in the shape, or under REINTERPRET large enough (R84, R85, R89). -/
def State.tileReadOk (s : State) (g : Nat) (t : TileRef) : Bool :=
  let r := (s.cell g).tile t.tile
  let sc := (s.cell g).tile t.stile
  decide (r.st = .valid)
    && (if t.reinterpret then decide (t.rows * t.width ≤ (r.rowsm1 + 1) * (32 * (r.wm1 + 1)))
        else decide (r.rowsm1 + 1 = t.rows ∧ 32 * (r.wm1 + 1) = t.width))
    && (!fmtMx t.fmt || (decide (sc.st = .valid) && decide (sc.rowsm1 + 1 = t.rows ∧ sc.wm1 = 0)))

/-- Tiles an instruction reads, with the slot that names them. -/
def Cur.tilesRead (i : Cur) : List (Option Nat × TileRef) :=
  if i.is opTstore then [(none, i.fieldTile)]
  else if i.is opTmove then [(none, i.moveSrc)]
  else match i.tileAt 0 with
    | some t => [(some 0, t)]
    | none => []

/-- Tiles it writes. -/
def Cur.tilesWritten (i : Cur) : List TileRef :=
  if i.is opTload then [i.fieldTile]
  else if i.is opTmove then [i.moveDst]
  else if i.is opAmax then []
  else match i.tileAt 1 with
    | some t => [t]
    | none => []

def State.tileCases (s : State) (i : Cur) : Option FaultRec :=
  firstFail (i.tilesRead.flatMap (fun e => i.cells.map (fun g => failIf (!s.tileReadOk g e.2) (setupFault e.1 (some g)))))

/-- Whether the instruction reads its tiles by columns, through the transposer. -/
def Cur.byColumns (i : Cur) : Bool := i.is opTrans2d || (i.is opTstore && i.b 46) || (i.is opTmove && i.b 41)

/-- The engine that takes the instruction's tiles reads the selected rows in the cell of each rank (R94, R95; DEDUCED, log 105). -/
def State.readTiles (s : State) (i : Cur) (sel : Nat → Nat → Bool) : State :=
  i.tilesRead.foldl (fun s e => i.cells.zipIdx.foldl (fun s g => s.updCell g.1 (fun x =>
    x.readTile s.build (if i.byColumns then engTransposer else engConverter) e.2 i.byColumns (sel g.2))) s) s

/-- R211, R113: the check against open queues at the moment of setup; the record names the cell whose queue holds the bytes (R401). -/
def State.heldCases (s : State) (c : Nat) (i : Cur) : Option FaultRec :=
  let clash := fun (k but : Option Nat) (iv : Int × Int) =>
    (s.heldIn i but iv).map (fun g => { setupFault k (some g) with code := fcAlias })
  let ops := i.descs.filter (fun e => decide (e.2.space = 1) && !e.2.empty && s.slotWrites c i e.1)
  firstFail (ops.map (fun e => clash (some e.1) none (e.2.lo (i.cellAxis e.1), e.2.hi (i.cellAxis e.1)))
    ++ (match i.buffer with
        | some b => [clash none none b]
        | none => [])
    ++ (match i.stream with
        | some d => [if d.rsize = 0 then none else clash (some 0) (some (i.f 51 48)) (d.rbase, (d.rbase : Int) + d.rsize * 4096 - 1)]
        | none => []))

/-- The stream queue an instruction names (R176). -/
def Cur.queueNo (i : Cur) : Nat :=
  if i.is opSopen ∨ i.is opCarousel then i.f 51 48 else if i.is opSblock then i.f 47 44 else i.f 95 92

/-- Every engaged cell's queue has room, and no Carousel runs on it (R216, R230). -/
def State.queueRoom (s : State) (i : Cur) : Bool :=
  i.cells.all (fun g => let x := s.queue g i.queueNo
                        decide (x.blocks.length < x.limit) && x.carousel.isNone)

/-- R210, R213 (setup row), R215: the queue's state in every engaged cell. For an SCLOSE of another context's queue R210 is followed
against the table of R181 (DEDUCED, log 106). -/
def State.streamCases (s : State) (c : Nat) (i : Cur) : Option FaultRec :=
  let q := i.queueNo
  let at_ := fun (p : Queue → Bool) => firstFail (i.cells.map (fun g => failIf (p (s.queue g q)) (setupFault none (some g))))
  if i.is opSopen then
    firstFail [ at_ (fun x => decide (x.st ≠ .closed))
              , match i.stream with
                | some d => failIf (decide (256 ≤ (d.layer - s.beat.layer).toNat)) (setupFault (some 0) none)
                | none => none ]
  else if i.is opSblock ∨ i.is opCarousel then
    let stack := i.is opSblock && decide (i.slotSpace 0 = 0)
    firstFail [ failIf (i.is opCarousel && decide (i.slotSpace 0 = 0)) (setupFault (some 0) none)
              , at_ (fun x => decide ((x.st ≠ .opened ∧ x.st ≠ .halted) ∨ x.owner ≠ c))
              , at_ (fun x => stack && decide (x.sd.rsize < 2)) ]
  else if i.is opSclose then at_ (fun x => decide (x.st ≠ .closed ∧ x.owner ≠ c))
  else none

/-- R105: the destination coordinate along A. -/
def rotIndex (n : Nat) (x : Nat) (shift : Int) (rev : Bool) (skew : Int) (ib : Nat) : Nat :=
  (((if rev then n - 1 - x else x : Nat) + skew * ib + shift) % (max 1 n : Nat)).toNat

/-- SHIFT, and SKEW where there is a skew axis (R105, R169). -/
def Cur.rotShift (i : Cur) : Int := signedOf 22 (i.f 34 13)
def Cur.rotSkew (i : Cur) : Int := if i.b 43 then signedOf 6 (i.f 12 7) else 0

/-- Distances between cells of one slice for moves from rank to rank. -/
def Cur.distances (i : Cur) (moves : List (Nat × Nat)) : List Nat :=
  (moves.filterMap (fun m =>
    let a := i.cells.getD m.1 0
    let b := i.cells.getD m.2 0
    if a / 64 = b / 64 ∧ a ≠ b then some ((b % 64 + 64 - a % 64) % 64) else none)).eraseDups

/-- Lattice slots the instruction needs in each slice (R106, R114, R230). An exchange among fewer than 64 cells of a slice needs the
distances between those cells alone, where R114 names slots 1 to 63 (DESIGN CHOICE, log 119). -/
def Cur.latticeNeeds (i : Cur) : List Nat :=
  let n := i.cells.length
  if i.is opCarousel then [i.f 47 42]
  else if i.is opPerm then
    match axisField (i.f 14 11), axisField (i.f 10 7) with
    | some cs, some cd =>
      if i.axmap cd = cs then
        if i.permRev cd then i.distances ((List.range n).map (fun r => (r, n - 1 - r))) else []
      else i.distances ((List.range n).flatMap (fun r => (List.range n).map (fun q => (r, q))))
    | _, _ => []
  else if i.is opRot then
    match axisField (i.f 38 35) with
    | some ca =>
      if ca = i.axis then
        let sh := (i.rotShift % 64).toNat
        let turns := match i.descAt 0 with
          | some d => if i.b 43 then min n (d.e (i.f 42 40)) else 1
          | none => 1
        if i.rotSkew = 0 ∧ (sh = 1 ∨ sh = 63) then []
        else sh :: i.distances ((List.range turns).flatMap (fun b =>
          (List.range n).map (fun r => (r, rotIndex n r i.rotShift (i.b 39) i.rotSkew b))))
      else []
    | none => []
  else []

def State.latticeCases (s : State) (i : Cur) : Option FaultRec :=
  let need := i.latticeNeeds
  firstFail ((i.cells.map (· / 64)).eraseDups.map (fun n =>
    failIf (need.any (fun k => !bitAt (s.slice n).lattice.toNat k)) (setupFault none ((i.cells.find? (fun g => decide (g / 64 = n)))))))

/-- Active configuration of an engaged slice fails its parity when it is read at cell setup (R365). -/
def State.upsetSlice (s : State) (i : Cur) : Option Nat :=
  ((i.cells.map (· / 64)).eraseDups).find? (fun n => (s.region n).upset.any (fun f => !(s.region n).mending.contains f))

/-- A configuration upset is logged. -/
def State.logUpset (s : State) (k frame : Nat) (bad : Bool) : State :=
  ({ s with cfg := { s.cfg with
    upCount := if s.cfg.upCount = 0xFFFF then 0xFFFF else s.cfg.upCount + 1
    upRegion := BitVec.ofNat 8 (regionCode k), upFrame := BitVec.ofNat 24 frame, upBad := bad, upValid := true } }).globalFault
    fcCfgUpset 1 (regionCode k) 0

/-- The bytes that the instruction writes through write-aside space become undefined. -/
def State.scrambleAside (s : State) (c : Nat) (i : Cur) : State :=
  if (s.ctx c).gen.isOpen then
    (s.asideWrites c i).foldl (fun s (w, k, d) =>
      let e := s.winEff c w
      s.winScramble e (1 - e.current) (d.lo (i.cellAxis k)).toNat ((d.hi (i.cellAxis k)).toNat + 1)) s
  else s

/-- R365: the event is logged, the scrubber has the frame to rewrite (R352), and the context stops. -/
def State.upsetAtUse (s : State) (c : Nat) (i : Cur) (n : Nat) : State :=
  let fr := ((s.region n).upset.filter (fun f => !(s.region n).mending.contains f)).headD 0
  let s1 := (s.updRegion n (fun r => { r with mending := r.mending ++ [fr] })).logUpset n fr false
  (s1.scrambleAside c i).stopFault c { code := fcCfgUpset, stage := 6 }

/-! ## Setup -/

/-- A generation opens by itself for a write through write-aside space (R162). -/
def State.implicitGen (s : State) (c : Nat) (i : Cur) : State :=
  if (s.ctx c).gen.isOpen ∨ (s.asideWrites c i).isEmpty then s else s.openLocal c

/-- The cells become the context's, the slices are ungated, the pins are taken (R252, R257, R334). -/
def State.takeCells (s : State) (c : Nat) (i : Cur) : State :=
  let s1 := i.cells.foldl (fun s g => s.updCell g (fun x => { x with owner := some c })) s
  let gated := s1.clk.gated
  let mask := (i.cells.map (· / 64)).foldl (fun (m : BitVec 12) n => m &&& ~~~(BitVec.ofNat 12 (2 ^ n))) gated
  let s2 := { s1 with clk := { s1.clk with gated := mask } }
  s2.updCtx c (fun x => { x with perfSetup := satAdd x.perfSetup (if mask = gated then 0 else 64) })

def State.pinsOf (s : State) (c : Nat) (i : Cur) : List (Nat × BitVec 32) :=
  (s.readWins c i).eraseDups.map (fun w => (w, (s.winEff c w).gen))

/-- The footprints of the instruction's stack writes join the window records (R243, R247). -/
def State.recordAll (s : State) (c : Nat) (i : Cur) : State :=
  (s.stackWrites c i).foldl (fun s (w, k, d) =>
    s.recordWrite c w (d.lo (i.cellAxis k)).toNat (d.hi (i.cellAxis k)).toNat (i.inPlace k)) s

/-- The instruction at HEAD, when it is the named one and may begin. -/
def State.readyHead (s : State) (c op : Nat) (ph : Phase) : Option Cur :=
  match s.head c with
  | some i =>
    if s.running c ∧ s.switchedOut c = false ∧ i.op = op ∧ i.phase = ph ∧ i.fault = none ∧ s.fetchWaits c i.n = false then some i else none
  | none => none

/-- The checks that a resume or a synchronisation makes before data moves (R160, R420), then the state cases of R84. First of all, an
instruction decoded before one of its cells was fenced meets step D3 again (R367, R368; DEDUCED, log 133). -/
def State.setupCheck (s : State) (c : Nat) (i : Cur) : Option FaultRec :=
  firstFail [ failIf (i.cells.any s.cellDown) (decFault fcBounds 3 none)
            , if i.halted then s.checkResume c i else if i.recheck then s.checkLate c i else none
            , s.heldCases c i, s.tileCases i, s.streamCases c i, s.latticeCases i ]

/-- The windows whose residency the instruction needs: its operands', and its context's save window where a window record changes
(R258). -/
def State.usedWins (s : State) (c : Nat) (i : Cur) : List Nat :=
  i.windows ++ (if (s.stackWrites c i).any (fun e => (s.winEff c e.1).aside) then [(s.saveAt c).1] else [])

/-- Every window the instruction uses is resident. -/
def State.resident (s : State) (c : Nat) (i : Cur) : Bool := (s.usedWins c i).all (fun w => (s.winEff c w).resident)

def residencyFault : FaultRec := { code := fcResidency, stage := 4, resumable := true }

/-- The tile and, for MX, its scale tile have been written and take a state and the instruction's shape (R82, R94, R98). -/
def State.setTiles (s : State) (g : Nat) (t : TileRef) (st : TileState) (cursor : Nat) : State :=
  s.updCell g (fun x =>
    let x1 := (x.wroteTile s.build t.tile).setTile t.tile ⟨st, cursor, t.width / 32 - 1, t.rows - 1⟩
    if fmtMx t.fmt then (x1.wroteTile s.build t.stile).setTile t.stile ⟨st, cursor, 0, t.rows - 1⟩ else x1)

/-- Where the tile of the instruction stands in a cell: 0, or CURSOR when it is the PARTIAL tile that its own halt left (R99). Every halt
of a TLOAD leaves the tile PARTIAL in every engaged cell, so that a halted load finds no other load's rows. -/
def State.loadCursor (s : State) (i : Cur) (wasHalted : Bool) (g : Nat) : Nat :=
  let r := (s.cell g).tile i.fieldTile.tile
  if wasHalted ∧ r.st = .partly then r.cursor else 0

/-- A TLOAD that halts before it loads a row in a cell leaves its tile there PARTIAL all the same, with what it had loaded before
(R98, R99; DEDUCED, log 104). -/
def State.holdLoad (s : State) (i : Cur) : State :=
  if i.is opTload then i.cells.foldl (fun t g => t.setTiles g i.fieldTile .partly (t.loadCursor i i.halted g)) s else s

/-- RESIDENCY during data movement: the context stops at the halt point, its position saved (R51, R279). -/
def State.stopResidency (s : State) (c : Nat) (i : Cur) : State :=
  let w := (s.usedWins c i).find? (fun w => !(s.winEff c w).resident)
  let k := (i.descs.find? (fun e => decide (some e.2.window = w) && decide (e.2.space = 0))).map (·.1)
  (s.setHead c { i with halted := true, pins := [] }).stopFault c { residencyFault with slot := k, win := w }

/-- Window-table entries that an access needs and the unit does not hold are read by the descriptor fetcher, 32 B each, and held from then on
(R42, R48). -/
def State.missEntries (s : State) (c : Nat) (ws : List Nat) (by_ : Requester) : State :=
  (s.missing c ws).foldl (fun t o =>
    (t.ask { write := false, by_ := by_, port := some 27 } (touch ((List.range 32).map (fun k =>
      ((t.winAddr o.1 o.2).1, (t.winAddr o.1 o.2).2 + k))))).winTouch o.1 o.2) s

/-- The same for an instruction between its validation and its end: a read that fails is one of validation (R402). -/
def State.rereadEntries (s : State) (c : Nat) (i : Cur) : State := s.missEntries c i.windows (.fetch c i.n 2 5)

/-- Cell setup is over: the cells are taken and their generators seeded (R72), an implicit generation is open, the instruction at HEAD has its
pins. -/
def State.setUp (s : State) (c : Nat) (i : Cur) : State × Cur :=
  let s1 := (((s.takeCells c i).seedGens c i).implicitGen c i).updRun c (fun r => { r with resumable := false })
  let j := { i with pins := s1.pinsOf c i, halted := false, recheck := false }
  (s1.setHead c j, j)

/-- The staging buffer at SBUF holds nothing defined any more: after the instruction, and when it halts (R113, R126, R148). -/
def State.scrambleBuffer (s : State) (i : Cur) : State := match i.buffer with
  | some b => i.cells.foldl (fun s g => (s.updCell g (fun x => { x with mem := x.mem.scramble b.1.toNat (b.2.toNat + 1) s.free })).bump 1) s
  | none => s

/-- A CVT whose destination passes R38 leaves its scratch unused (R173). -/
def Cur.usesScratch (i : Cur) : Bool := decide (i.op ≠ opCvt) || i.combinePath

/-- Nor does scratch, after the instruction (R127). -/
def State.scrambleScratch (s : State) (c : Nat) (i : Cur) : State := match i.descOfRole .scratch with
  | some d =>
    if d.space = 0 ∧ !d.empty ∧ i.usesScratch then
      let e := s.winEff c d.window
      s.winScramble e e.current (d.lo none).toNat ((d.hi none).toNat + 1)
    else s
  | none => s

def State.scrambleBuffers (s : State) (c : Nat) (i : Cur) : State := (s.scrambleBuffer i).scrambleScratch c i

/-- What an instruction that had begun leaves undefined as it ends without its result: nothing more, where it has moved no data. -/
def State.leaveScratch (s : State) (c : Nat) (i : Cur) : State := if i.halted || decide (i.phase = .moving) then s.scrambleBuffers c i else s

/-- The same of the instruction at HEAD. -/
def State.leaveHead (s : State) (c : Nat) : State := match s.head c with
  | some i => s.leaveScratch c i
  | none => s

/-- The common path of an instruction with cells, up to its data movement. A wait that a host STOP meets is abandoned (R205), and a
wait or a fault leaves the window records as they were (R84, R245), and so does an instruction that RESIDENCY stops before it moves data
(R258). Entries dropped since validation are read again first, and the instruction waits for them (R48). `part` is the movement before a halt, which may have found the windows resident when it began (R51). With an empty operand the
instruction completes at once (R29), with the generation it opens (R162). -/
def State.setupThen (s : State) (c op : Nat) (part : Bool) (move : State → Cur → State) : State :=
  match s.readyHead c op .ready with
  | none => s
  | some i =>
    if i.anyEmpty then (s.implicitGen c i).setHead c { i with phase := .moved, halted := false, recheck := false }
    else
      let t := s.dropDense c i
      if (if part then t.haltWaits c i else t.setupWaits c i) then (if (s.ctx c).run.stopReq then s.stopCtx c 1 0 i.halted else s)
      else if !(s.missing c i.windows).isEmpty then s.rereadEntries c i
      else match s.setupCheck c i with
        | some f => (s.leaveScratch c i).stopFault c f
        | none =>
          match s.upsetSlice i with
          | some n => (s.leaveScratch c i).upsetAtUse c i n
          | none =>
            if !part && !s.resident c i then
              let (s1, j) := s.setUp c i
              (s1.holdLoad i).stopResidency c j
            else
              let (s1, j) := t.setUp c i
              move (s1.recordAll c j) j

def State.withSetup (s : State) (c op : Nat) (move : State → Cur → State) : State := s.setupThen c op false move

/-- A fault found while data moves: buffer and scratch are undefined, and the context stops (R126, R127). -/
def State.failMove (s : State) (c : Nat) (i : Cur) (f : FaultRec) : State := (s.scrambleBuffers c i).stopFault c f

/-- Data movement is over; retirement waits for the stack ports (R192). -/
def State.moved (s : State) (c : Nat) (i : Cur) : State :=
  (s.scrambleBuffers c i).setHead c { i with phase := .moved, pos := [], step := 0 }

/-! ## Retirement with the marks of R255 -/

/-- R255. -/
def State.replayUnsafe (s : State) (c : Nat) (i : Cur) : Bool :=
  let g := (s.ctx c).gen
  [opSwait, opSsignal, opSopen, opSblock, opSclose, opCarousel].contains i.op
    || (i.nonatomic && i.descs.any (fun e => decide (e.2.space = 0) && s.slotWrites c i e.1))
    || i.descs.any (fun e => decide (e.2.space = 1) && s.slotWrites c i e.1)
    || ((i.is opRput || i.is opReshard) && !(g.isOpen && g.fab))

def State.retireHead (s : State) (c : Nat) (i : Cur) : State :=
  (if s.replayUnsafe c i then s.markUnsafe c else s).retire c

/-! ## Halting (R420) -/

/-- Something asks the instruction to halt: RESIDENCY, a host STOP, a switch that is due, an activation that purges its slice (R420). -/
def State.haltAsked (s : State) (c : Nat) (i : Cur) : Bool :=
  (s.ctx c).run.stopReq || (s.ctx c).run.quantumOver || s.switchDue c || !s.resident c i
    || i.cells.any (fun g => s.purging (g / 64))

/-- The instruction stands halted at its halt point: the context stops for RESIDENCY or a STOP, and otherwise keeps its
state and stands at an instruction boundary (R98, R205, R257). -/
def State.haltHead (s : State) (c : Nat) (i : Cur) : State :=
  let j := { i with halted := true, phase := .ready, pins := [] }
  let s1 := (s.scrambleBuffer i).setHead c j
  if !s1.resident c i then s1.stopResidency c j
  else if (s1.ctx c).run.stopReq then s1.stopCtx c 1 0 true
  else s1.updRun c (fun r => { r with resumable := true })

end Sys2Proof.Machine
end

