-- ==== Sys2Proof/Machine/Tiles.lean ====
section
/-!
DEFINITION. TLOAD, TSTORE, TMOVE and TREL (R78 to R99, R164 to R166).
-/
namespace Sys2Proof.Machine

/-- The same tile of every engaged cell as the tensor ⟨n, rows, cells⟩. -/
def cellsView (b : Build) (t : TileRef) (cells : List Nat) : View :=
  { fmt := t.fmt, ext := [t.n, t.rows, cells.length], axis := 0
    at_ := fun idx => (tileView b t (cells.getD (idx.getD 2 0) 0)).at_ idx
    scaleAt := fun idx => (tileView b t (cells.getD (idx.getD 2 0) 0)).scaleAt idx
    again := fun _ => 0, scaleAgain := fun _ => 0 }

/-- The engaged cell of a cells' tensor index. -/
def Cur.rankCell (i : Cur) (idx : List Nat) : Nat := i.cells.getD (idx.getD 2 0) 0

def swap2 (idx : List Nat) : List Nat := idx.getD 1 0 :: idx.getD 0 0 :: idx.drop 2

/-- Index of the tensor for an index of the cells' tiles (R86 to R88). -/
def tileToTensor (trn shared : Bool) (idx : List Nat) : List Nat :=
  let a := if trn then swap2 idx else idx
  if shared then a.set 2 0 else a

/-- Source rows of a TLOAD: rows of the descriptor, not of the tile (R98). -/
def Cur.sourceRows (i : Cur) : Nat := if i.b 46 then i.fieldTile.n else i.fieldTile.rows

def sourceRow (trn : Bool) (idx : List Nat) : Nat := if trn then idx.getD 0 0 else idx.getD 1 0

/-- Zero for the scale bytes past the last block of each row (R89). -/
def scalePad (b : Build) (t : TileRef) (cells : List Nat) : List (Loc × Nat) :=
  if fmtMx t.fmt then
    cells.flatMap (fun g => (List.range t.rows).flatMap (fun r =>
      (List.range (32 - t.n / 32)).map (fun k =>
        let p := b.tileAt g t.stile
        (⟨p.1, p.2 + r * 32 + t.n / 32 + k, 0, 8⟩, 0))))
  else []

/-- One tile becomes EMPTY. An EMPTY tile stays as it is (R92). -/
def Cell.releaseTile (x : Cell) (b : Build) (t seed : Nat) : Cell :=
  if (x.tile t).st = .empty then x else ((x.dropTile t).tileScramble b t seed).setTile t TileRec.empty

/-- Every tile of the cell becomes EMPTY, and nothing is held of any of them. -/
def Cell.emptyAll (x : Cell) (b : Build) (seed : Nat) : Cell :=
  { ((List.range 32).foldl (fun x t => x.releaseTile b t (seed + t)) x).dropAll with tiles := [] }

/-- The tile and, for MX, its scale tile become EMPTY: their bytes are undefined, and nothing holds them any more (R92, R98). -/
def State.emptyTiles (s : State) (g : Nat) (t : TileRef) : State :=
  s.updCell g (fun x =>
    let x1 := x.releaseTile s.build t.tile s.free
    if fmtMx t.fmt then x1.releaseTile s.build t.stile s.free else x1)

/-- The tensor of a TLOAD or TSTORE, whose index holds the rank of the cell at `at_`. -/
def State.tileTensor (s : State) (c : Nat) (i : Cur) (d : TDesc) (at_ : Nat) : View :=
  let v := s.tensorView c i 0 d 0
  let g := fun (idx : List Nat) => i.cells.getD (idx.getD at_ 0) 0
  { v with at_ := fun idx => (v.at_ idx).inCell (g idx), scaleAt := fun idx => (v.scaleAt idx).inCell (g idx) }

/-- Which reading of a TLOAD's operand an index belongs to (R35), where one reading serves every slice: each cell's part has its own, but
for data that is the same in every cell. -/
def TDesc.loadPart (d : TDesc) (idx : List Nat) : Nat := d.again idx * max 1 (d.e 2) + (d.once idx).getD 2 0

/-- The source of a TLOAD. With a cell extent of 1 each engaged slice reads it once (R87). -/
def State.loadView (s : State) (c : Nat) (i : Cur) (d : TDesc) : View :=
  let v := s.tileTensor c i d 8
  let own := decide (d.e 2 ≠ 1)
  { v with
    all := v.all && own, scaleAll := v.scaleAll && own
    again := if v.all && own then d.loadPart else v.again
    scaleAgain := match i.scaleOf 0 with
      | some (_, sd) => if v.scaleAll && own then sd.loadPart else v.scaleAgain
      | none => v.scaleAgain }

/-- A TLOAD's copy of the source rows from `lo r` up to `hi r` in the cell of rank r. -/
def State.loadRows (s : State) (c : Nat) (i : Cur) (lo hi : Nat → Nat) : State :=
  match i.descAt 0 with
  | none => s
  | some d =>
    let t := i.fieldTile
    let j : Job :=
      { src := s.loadView c i d
        dst := cellsView s.build t i.cells
        from_ := fun idx => some (tileToTensor (i.b 46) (decide (d.e 2 = 1)) idx ++ [0, 0, 0, 0, 0] ++ [idx.getD 2 0])
        cell := i.rankCell, trn := i.b 46 }
    let m := s.moveJob (i.roundBy s c) j (fun idx =>
      let r := idx.getD 2 0
      let row := sourceRow (i.b 46) idx
      decide (lo r ≤ row ∧ row < hi r))
    s.applyMoved c i { m with writes := m.writes ++ scalePad s.build t i.cells }

def State.tloadMove (halted : Bool) (s : State) (c : Nat) (i : Cur) : State :=
  let cur := i.cells.map (s.loadCursor i halted)
  let s1 := s.loadRows c i (fun r => cur.getD r 0) (fun _ => i.sourceRows)
  (i.cells.foldl (fun s g => s.setTiles g i.fieldTile .valid 0) s1).moved c i

/-- The head instruction is a halted one (R99). -/
def State.headHalted (s : State) (c : Nat) : Bool := match s.head c with
  | some i => i.halted
  | none => false

/-- TLOAD (R86, R164). -/
def execTload (c : Fin 64) (s : State) : Host.Outcome State Fault Refusal :=
  .next (s.withSetup c opTload (fun t i => State.tloadMove (s.headHalted c) t c i))

/-- A TSTORE's copy of tile rows from `lo r` up to `hi r` in the cell of rank r (R86, R88, R90). -/
def State.storeRows (s : State) (c : Nat) (i : Cur) (lo hi : Nat → Nat) : State :=
  match i.descAt 0 with
  | none => s
  | some d =>
    let n := i.cells.length
    let rowOf := fun (idx : List Nat) => if i.b 46 then idx.getD 0 0 else idx.getD 1 0
    let j : Job :=
      { src := cellsView s.build i.fieldTile i.cells
        dst := { s.tileTensor c i d 2 with ext := [d.e 0, d.e 1, n] }
        from_ := fun idx => some (if i.b 46 then swap2 idx else idx)
        cell := i.rankCell, trn := i.b 46 }
    s.applyMoved c i (s.moveJob (i.roundBy s c) j (fun idx =>
      let r := idx.getD 2 0
      decide (lo r ≤ rowOf idx ∧ rowOf idx < hi r)))

def State.tstoreMove (s : State) (c : Nat) (i : Cur) : State :=
  ((s.readTiles i (fun r row => decide (i.pos.getD r 0 ≤ row))).storeRows c i (fun r => i.pos.getD r 0) (fun _ => i.fieldTile.rows)).moved c i

/-- TSTORE (R90, R164). -/
def execTstore (c : Fin 64) (s : State) : Host.Outcome State Fault Refusal :=
  .next (s.withSetup c opTstore (fun t i => t.tstoreMove c i))

def State.tmoveMove (s : State) (c : Nat) (i : Cur) : State :=
  let a := i.moveSrc
  let b := i.moveDst
  let j : Job :=
    { src := cellsView s.build a i.cells, dst := cellsView s.build b i.cells
      from_ := fun idx => some (if i.b 41 then swap2 idx else idx)
      cell := i.rankCell, trn := i.b 41 }
  let m := s.moveJob (i.roundBy s c) j (fun _ => true)
  let s1 := (s.readTiles i (fun _ _ => true)).applyMoved c i { m with writes := m.writes ++ scalePad s.build b i.cells }
  (i.cells.foldl (fun s g => s.setTiles g b .valid 0) s1).moved c i

/-- TMOVE (R91, R165). -/
def execTmove (c : Fin 64) (s : State) : Host.Outcome State Fault Refusal :=
  .next (s.withSetup c opTmove (fun t i => t.tmoveMove c i))

/-- The named tiles of every engaged cell become EMPTY (R92). -/
def State.trelMove (s : State) (c : Nat) (i : Cur) : State :=
  let ts := bitsOf 32 (i.f 95 64)
  ((i.cells.foldl (fun t g => t.updCell g (fun x => ts.foldl (fun x n => x.releaseTile s.build n (s.free + n)) x)) s).bump 32).moved c i

/-- TREL (R92, R166). -/
def execTrel (c : Fin 64) (s : State) : Host.Outcome State Fault Refusal :=
  .next (s.withSetup c opTrel (fun t i => t.trelMove c i))

/-- What the tile and, for MX, its scale tile held is discarded (R98). -/
def State.discardTiles (s : State) (g : Nat) (t : TileRef) : State :=
  (s.updCell g (fun x =>
    let x1 := x.tileScramble s.build t.tile s.free
    if fmtMx t.fmt then x1.tileScramble s.build t.stile s.free else x1)).bump 1

/-- Halting a TLOAD: rows loaded per cell, the tiles PARTIAL, in a cell with none too (R98; DEDUCED, log 104). A TRN load into an MX tile counts
in 32 rows, and CURSOR reaches 511 at most (R82). -/
def State.haltTload (halted : Bool) (s : State) (c : Nat) (i : Cur) (progress : List Nat) : State :=
  let stepOf := fun (n : Nat) => if i.b 46 && fmtMx i.fieldTile.fmt then n / 32 * 32 else n
  let cur := i.cells.map (s.loadCursor i halted)
  let upTo := i.cells.zipIdx.map (fun e => max (cur.getD e.2 0) (stepOf (min (min 511 i.sourceRows) (progress.getD e.2 0))))
  let begun := i.cells.zipIdx.filterMap (fun e => if cur.getD e.2 0 = 0 ∧ 0 < upTo.getD e.2 0 then some e.1 else none)
  let s1 := (begun.foldl (fun s g => s.discardTiles g i.fieldTile) s).loadRows c i (fun r => cur.getD r 0) (fun r => upTo.getD r 0)
  i.cells.zipIdx.foldl (fun s e => s.setTiles e.1 i.fieldTile .partly (upTo.getD e.2 0)) s1

/-- Halting a TSTORE to a stack window: rows written per cell (R420). -/
def State.haltTstore (s : State) (c : Nat) (i : Cur) (progress : List Nat) : State :=
  let upTo := i.cells.zipIdx.map (fun e => max (i.pos.getD e.2 0) (min i.fieldTile.rows (progress.getD e.2 0)))
  ((s.readTiles i (fun r row => decide (i.pos.getD r 0 ≤ row ∧ row < upTo.getD r 0))).storeRows c i (fun r => i.pos.getD r 0)
    (fun r => upTo.getD r 0)).setHead c { i with pos := upTo }

end Sys2Proof.Machine
end

