-- ==== Sys2Proof/Machine/Permute.lean ====
section
/-!
DEFINITION. TRANS2D, ROT, PERM (R102 to R118, R167 to R169), CVT, REBLOCK and AMAX (R173 to R175):
one index map from destination to source, block by block.
-/
namespace Sys2Proof.Machine

/-- R105, inverted: the source coordinate along A of destination coordinate y. -/
def rotSource (n : Nat) (y : Nat) (shift : Int) (rev : Bool) (skew : Int) (ib : Nat) : Nat :=
  let x := ((y : Int) - shift - skew * ib) % (max 1 n : Nat)
  if rev then n - 1 - x.toNat else x.toNat

/-- The source index of a destination index (R105, R107, R173). -/
def Cur.sourceIdx (i : Cur) (dst : List Nat) (idx : List Nat) : List Nat :=
  if i.is opPerm then
    let r := dst.length
    (List.range r).map (fun k =>
      match (List.range r).find? (fun m => decide (i.axmap m = k)) with
      | some m => if i.permRev m then dst.getD m 0 - 1 - idx.getD m 0 else idx.getD m 0
      | none => 0)
  else if i.is opRot then
    let a := i.axis
    let y := rotSource (dst.getD a 0) (idx.getD a 0) i.rotShift (i.b 39) i.rotSkew (if i.b 43 then idx.getD (i.f 42 40) 0 else 0)
    idx.set a y
  else if i.is opTrans2d then swap2 idx
  else idx

/-- Whether each engaged cell carries out the whole instruction on its own operands, or one copy serves all (R107, R173). -/
def Cur.perCell (i : Cur) : Bool :=
  let cellSide := fun (k : Nat) => (decide (entryKind (i.entry k) = 4) || decide (i.slotSpace k = 1)) && (i.cellAxis k).isNone
  if i.is opAmax then cellSide 0 else cellSide 0 || cellSide 1

/-- The cells that each make a copy. -/
def Cur.copyCells (i : Cur) : List Nat := if i.perCell then i.cells else [i.cells.headD 0]

/-- A data slot as a tensor: a tile counts as ⟨n, rows⟩ with packed rows (R173). -/
def Cur.asTensor (i : Cur) (k : Nat) : Option TDesc := match i.tileAt k with
  | some t => some ⟨0, 0, 0, BitVec.ofNat 8 t.fmt, 1, 2, [t.n, t.rows], [if fmtSubByte t.fmt then 1 else (fmtBytes t.fmt : Nat), (t.width : Nat)]⟩
  | none => i.descAt k

/-- The plan of R110 and R111 for the instruction's data operands. ROT has no AXMAP and no REV mask: its axis A and skew axis B fold with
no other (R110 names neither; DESIGN CHOICE, log 120). -/
def Cur.plan (i : Cur) : Option (TDesc × Plan) :=
  match i.asTensor 0, i.asTensor (if i.is opAmax then 0 else 1) with
  | some a, some b =>
    let fixed := ((i.cellAxis 0).toList ++ (if i.is opPerm then (i.cellAxis 1).toList.map i.axmap else []))
      ++ (if i.is opRot then [i.axis] ++ (if i.b 43 then [i.f 42 40] else []) else [])
    let ax := fun m => if i.is opPerm then i.axmap m else m
    let rev := fun m => i.is opPerm && i.permRev m
    some (a, planOf a b ax rev fixed)
  | _, _ => none

/-- Block number of a source index (R111). -/
def Cur.blockAt (i : Cur) (idx : List Nat) : Nat := match i.plan with
  | some (a, p) => p.blockNo a idx
  | none => 0

/-- The run of R120 that a source element is read in, with a broadcast operand's readings (R35), and the one it is written in. -/
def Cur.srcRun (i : Cur) (idx : List Nat) : Nat := match i.plan, i.descAt 0 with
  | some (a, p), some d => p.srcRun a (d.once idx)
  | some (a, p), none => p.srcRun a idx
  | none, _ => 0

/-- The run that a block scale of the source is read in: that of the block's first element (R120). -/
def Cur.scaleRun (i : Cur) (axis : Nat) (b : List Nat) : Nat :=
  let x := match i.scaleOf 0 with
    | some (_, sd) => sd.once b
    | none => b
  match i.plan with
  | some (a, p) => p.srcRun a (x.set axis (x.getD axis 0 * 32))
  | none => 0

def Cur.dstRun (i : Cur) (idx : List Nat) : Nat := match i.plan with
  | some (a, p) => p.dstRun a idx
  | none => 0

/-- Block number of a destination index. -/
def Cur.blockOf (i : Cur) (dst : List Nat) (idx : List Nat) : Nat := i.blockAt (i.sourceIdx dst idx)

/-- The cell that processes a destination index (R111): with a staging source the cell that holds it, else with a staging destination
that one; between stack operands the blocks are dealt in turn. -/
def Cur.unitCell (i : Cur) (cell : Nat) (dst : List Nat) (idx : List Nat) : Nat :=
  if i.perCell then cell
  else match i.cellAxis 0, i.cellAxis 1 with
    | some a, _ => i.cells.getD ((i.sourceIdx dst idx).getD a 0) cell
    | none, some b => i.cells.getD (idx.getD b 0) cell
    | none, none => i.cells.getD (i.blockOf dst idx % max 1 i.cells.length) cell

/-- The data source, read run by run (R120). A broadcast serves every slice (R35), but where each cell makes a copy of its own, each slice
reads it (R107). -/
def State.sourceView (s : State) (c : Nat) (i : Cur) (cell : Nat) : View :=
  let v := s.slotView c i 0 cell
  { v with again := i.srcRun, scaleAgain := i.scaleRun v.axis, all := v.all && !i.perCell, scaleAll := v.scaleAll && !i.perCell }

/-- One copy of the instruction, for the cell of one rank. -/
def State.cellJob (s : State) (c : Nat) (i : Cur) (cell : Nat) : Job :=
  let d := s.slotView c i 1 cell
  let d2 := if i.is opTrans2d ∧ d.ext.length = 2 then { d with ext := d.ext ++ [1] } else d
  { src := s.sourceView c i cell, dst := d2, from_ := fun idx => some (i.sourceIdx d.ext idx)
    cell := i.unitCell cell d.ext, run := fun idx => i.dstRun (i.sourceIdx d.ext idx), block := fun idx => some (i.blockOf d.ext idx) }

/-- Writes of several cells to the same places: whose bits a place ends with is not stated, and each is a free choice of its own
(DESIGN CHOICE, log 22). -/
def mixWrites (seed : Nat) : List (List (Loc × Nat)) → List (Loc × Nat)
  | [] => []
  | [w] => w
  | w :: t => (w.zip (mixWrites (seed + w.length) t)).zipIdx.map (fun e =>
      if Config.draw (seed + e.2) % 2 = 0 then e.1.1 else e.1.2)

/-- What several cells have moved, together. Each cell's staging takes its own writes; of what they all write to a stack window, scales and
amax with a staging destination among it, one cell's is kept (DESIGN CHOICE, log 22). -/
def State.mergeMoved (s : State) (ms : List Moved) : Moved :=
  let m := ms.foldl Moved.append Moved.none
  if 1 < ms.length then
    let shared := ms.map (fun x => x.writes.filter (fun w => w.1.window.isSome))
    { m with
      writes := m.writes.filter (fun w => w.1.window.isNone) ++ mixWrites s.free shared
      used := m.used + (shared.flatMap id).length }
  else m

/-- All copies, over the units that `sel` selects by block number. -/
def State.runJobs (s : State) (c : Nat) (i : Cur) (sel : Nat → Bool) : State :=
  let pad := fun (j : Job) (g : Nat) => match i.tileAt 1 with
    | some t => if j.dst.mx then scalePad s.build t [g] else []
    | none => []
  s.applyMoved c i (s.mergeMoved (i.copyCells.map (fun g =>
    let j := s.cellJob c i g
    let m := s.moveJob (i.roundBy s c) j (fun idx => sel (i.blockOf j.dst.ext idx))
    { m with writes := m.writes ++ pad j g })))

/-- The per-block amax tensor of every cell that has one, of the source as `at_` holds it, for the
blocks whose first element is selected (R76), run by run (R120). -/
def State.writeAmax (s : State) (c : Nat) (i : Cur) (at_ : State) (sel : List Nat → Bool) : State :=
  s.applyMoved c i (s.mergeMoved (i.copyCells.map (fun g =>
    let v := at_.slotView c i 0 g
    let w := at_.amaxBlocks c i v (i.unitCell g v.ext) sel
    { Moved.none with
      writes := w.map (·.2), stores := w.map (fun e => { cell := i.unitCell g v.ext e.1, part := (i.srcRun e.1, 0), loc := e.2.1 }) })))

/-- A tile destination becomes VALID with its entry's shape (R82, R167). -/
def State.validTile (s : State) (i : Cur) : State := match i.tileAt 1 with
  | some t => i.cells.foldl (fun s g => s.setTiles g t .valid 0) s
  | none => s

/-- A tile destination of which a part has been written: its lines take the new bytes, its latches are invalid (R94, R95). -/
def State.rewroteTile (s : State) (i : Cur) : State := match i.tileAt 1 with
  | some t => i.cells.foldl (fun s g => s.updCell g (fun x =>
      let x1 := x.wroteTile s.build t.tile
      if fmtMx t.fmt then x1.wroteTile s.build t.stile else x1)) s
  | none => s

/-- Blocks from the saved number on (R118). -/
def Cur.fromBlock (i : Cur) : Nat := i.pos.getD 0 0

/-- The rows of a tile source that hold an element of a selected block are read. -/
def State.readBlocks (s : State) (i : Cur) (sel : Nat → Bool) : State := match i.tileAt 0 with
  | some t => s.readTiles i (fun _ row => (List.range t.n).any (fun k => sel (i.blockAt [k, row])))
  | none => s

/-- The blocks selected, with their amax blocks. The source is read before a tile destination is written (R91). -/
def State.copyBlocks (s : State) (c : Nat) (i : Cur) (sel : Nat → Bool) : State :=
  ((s.readBlocks i sel).runJobs c i sel).writeAmax c i s (fun idx => sel (i.blockAt idx))

/-- A whole copy. -/
def State.copyMove (s : State) (c : Nat) (i : Cur) : State :=
  ((s.copyBlocks c i (fun b => decide (i.fromBlock ≤ b))).validTile i).moved c i

/-- TRANS2D (R103, R167). -/
def execTrans2d (c : Fin 64) (s : State) : Host.Outcome State Fault Refusal :=
  .next (s.withSetup c opTrans2d (fun t i => t.copyMove c i))

/-- PERM (R107, R168). -/
def execPerm (c : Fin 64) (s : State) : Host.Outcome State Fault Refusal :=
  .next (s.withSetup c opPerm (fun t i => t.copyMove c i))

/-- ROT (R105, R169). -/
def execRot (c : Fin 64) (s : State) : Host.Outcome State Fault Refusal :=
  .next (s.withSetup c opRot (fun t i => t.copyMove c i))

/-- REBLOCK (R64, R174). -/
def execReblock (c : Fin 64) (s : State) : Host.Outcome State Fault Refusal :=
  .next (s.withSetup c opReblock (fun t i => t.copyMove c i))

/-- The exact source values of the blocks selected, with the locations read. -/
def State.amaxValues (s : State) (c : Nat) (i : Cur) (sel : Nat → Bool) : Moved :=
  i.copyCells.foldl (fun a g =>
    let v := s.sourceView c i g
    let ix := (indices v.ext).filter (fun idx => sel (i.blockAt idx))
    a.append { Moved.none with
      values := ix.map (fun idx => s.readVal (v.here (i.unitCell g v.ext idx)) idx)
      reads := ix.flatMap (fun idx =>
        let h := i.unitCell g v.ext idx
        (v.here h).accesses h 0 (some (i.blockAt idx)) idx) }) Moved.none

/-- AMAX reads its source and writes only amax (R73, R175). -/
def State.amaxRead (s : State) (c : Nat) (i : Cur) (sel : Nat → Bool) : State :=
  ((s.readBlocks i sel).applyMoved c i (s.amaxValues c i sel)).writeAmax c i s (fun idx => sel (i.blockAt idx))

def State.amaxMove (s : State) (c : Nat) (i : Cur) : State :=
  (s.amaxRead c i (fun b => decide (i.fromBlock ≤ b))).moved c i

/-- AMAX (R175). -/
def execAmax (c : Fin 64) (s : State) : Host.Outcome State Fault Refusal :=
  .next (s.withSetup c opAmax (fun t i => t.amaxMove c i))

/-- Halting at a block boundary: every block below the saved number is done, and those the list names above it (R118). -/
def State.haltBlocks (s : State) (c : Nat) (i : Cur) (progress : List Nat) : State :=
  let low := max i.fromBlock (progress.headD 0)
  let done := fun (b : Nat) => decide (i.fromBlock ≤ b) && (decide (b < low) || (progress.drop 1).contains b)
  let s1 := if i.is opAmax then s.amaxRead c i done else (s.copyBlocks c i done).rewroteTile i
  s1.setHead c { i with pos := [low] }

end Sys2Proof.Machine
end

