-- ==== Sys2Proof/Machine/Index.lean ====
section
/-!
DEFINITION. The index engine: GATHER, SCATTER, BUCKET, SORTK (R122 to R148), and CVT with its combine path (R39, R139,
R173).
-/
namespace Sys2Proof.Machine

/-! ## Index values (R122 to R125) -/

/-- The integer an index-typed element holds. -/
def indexOf (f w : Nat) : Int :=
  match f with
  | 0x01 => signedOf 32 w
  | 0x03 => (w % 65536 : Nat)
  | _ => signedOf 8 w

/-- R124: an accepted index, a dropped one, or the code of its fault. -/
inductive Picked where
  | ok (x : Nat)
  | drop
  | bad (code : Nat)
deriving DecidableEq, Repr

def applyMode (x : Int) (n mode : Nat) : Picked :=
  if 0 ≤ x ∧ x < n then .ok x.toNat
  else if mode = 2 then (if x < 0 then .ok 0 else .ok (n - 1))
  else if mode = 3 then .drop
  else if x < 0 then
    if mode = 1 ∧ 0 ≤ x + n then .ok (x + n).toNat else .bad fcIndexNeg
  else .bad fcIndexRange

/-- All positions of an index operand with raw values, in position order (R123). -/
def State.indexList (s : State) (v : View) : List Int := (indices v.ext).map (fun idx => indexOf v.fmt (s.readLoc (v.at_ idx)))

/-- Positions whose index faults: position, raw value, code. -/
def badIndices (l : List Int) (n mode : Nat) : List (Nat × Int × Nat) :=
  l.zipIdx.filterMap (fun e => match applyMode e.1 n mode with
    | .bad code => some (e.2, e.1, code)
    | _ => none)

/-- Accepted indices by position. -/
def accepted (l : List Int) (n mode : Nat) : List (Option Nat) :=
  l.map (fun x => match applyMode x n mode with
    | .ok y => some y
    | _ => none)

/-- The destination footprints become undefined (R131, R264). -/
def State.scrambleWrites (s : State) (c : Nat) (i : Cur) : State :=
  let s1 := (s.stackWrites c i).foldl (fun s (w, k, d) =>
    let e := s.winEff c w
    s.winScramble e (e.region true (s.ctx c).gen.isOpen (i.inPlace k)) (d.lo none).toNat ((d.hi none).toNat + 1)) s
  (i.descs.filter (fun e => decide (e.2.space = 1) && s.slotWrites c i e.1 && !e.2.empty)).foldl (fun s e =>
    let sk := i.cellAxis e.1
    i.cells.foldl (fun s g => (s.updCell g (fun x =>
      { x with mem := x.mem.scramble (e.2.lo sk).toNat ((e.2.hi sk).toNat + 1) s.free })).bump 1) s) s1

/-! ## GATHER (R128 to R131) -/

/-- The cells that each carry out the instruction on their own index operand; one for a stack index operand. -/
def Cur.indexCells (i : Cur) : List Nat :=
  let sp := match i.descOfRole .index with
    | some d => d.space
    | none => i.slotSpace 0
  if sp = 1 then i.cells else [i.cells.headD 0]

def State.indexView (s : State) (c : Nat) (i : Cur) (cell : Nat) : View :=
  s.slotView c i ((i.slotOfRole .index).getD 0) cell

/-- The engaged cell that takes position p of n (R123): the cell of rank j has windows ⌊jW ÷ c⌋ to ⌊(j + 1)W ÷ c⌋ − 1. With its index
operand in staging, each cell takes its own. -/
def Cur.windowCell (i : Cur) (cell n p : Nat) : Nat :=
  if 1 < i.indexCells.length then cell
  else
    let w := ceilDiv n 4096
    let k := i.cells.length
    match (List.range k).find? (fun j => decide (j * w / k ≤ p / 4096 ∧ p / 4096 < (j + 1) * w / k)) with
    | some j => i.cells.getD j cell
    | none => cell

/-- The position of an element (R123). -/
def positionOf (ext idx : List Nat) : Nat := ((ext.zip idx).foldl (fun (a, w) e => (a + e.2 * w, w * e.1)) (0, 1)).1

/-- Reads of one granule are made once within a window of one cell (R130). -/
def windowPart (cell p : Nat) : Nat := p / 4096 * 1024 + cell

def State.gatherJob (s : State) (c : Nat) (i : Cur) (cell : Nat) : Job :=
  let src := s.slotView c i 0 cell
  let n := src.ext.getD i.axis 0
  let acc := accepted (s.indexList (s.indexView c i cell)) n i.indexMode
  { src := { src with again := fun _ => 0, scaleAgain := fun _ => 0, all := false, scaleAll := false }, dst := s.slotView c i 2 cell
    from_ := fun idx => (acc.getD (idx.getD i.axis 0) none).map (fun x => idx.set i.axis x)
    cell := fun idx => i.windowCell cell i.positions (idx.getD i.axis 0)
    part := fun idx => windowPart cell (idx.getD i.axis 0) }

/-- The index whose reading serves an index of the index operand too (R35). -/
def Cur.onceIndex (i : Cur) (idx : List Nat) : List Nat := match i.descOfRole .index with
  | some d => d.once idx
  | none => idx

/-- The reads of the index operand's selected windows; a broadcast operand is read in the window of the position that is read. -/
def State.indexReads (s : State) (c : Nat) (i : Cur) (sel : Nat → Bool) : List Access :=
  i.indexCells.flatMap (fun g =>
    let v := s.indexView c i g
    ((indices v.ext).zipIdx.filter (fun e => sel (e.2 / 4096))).map (fun e =>
      { cell := i.windowCell g i.positions e.2, part := (windowPart g (positionOf v.ext (i.onceIndex e.1)), 0), loc := v.at_ e.1 }))

/-- The index fault of the selected windows: of the faulting positions of all engaged cells, which one is reported is a free choice
(R125; DESIGN CHOICE, log 37). -/
def State.gatherFault (s : State) (c : Nat) (i : Cur) (axisSlot : Nat) (sel : Nat → Bool) : Option FaultRec :=
  let n := (i.slotExts axisSlot).getD i.axis 0
  let n := if i.is opBucket then i.bCount else n
  let l := i.indexCells.flatMap (fun g =>
    ((badIndices (s.indexList (s.indexView c i g)) n i.indexMode).filter (fun b => sel (b.1 / 4096))).map (fun b => (g, b)))
  match l with
  | [] => none
  | h :: _ =>
    let e := if l.length = 1 then h else l.getD (Config.draw s.free % l.length) h
    some { code := e.2.2.2, stage := 4, slot := some ((i.slotOfRole .index).getD 1), pos := some e.2.1, raw := some e.2.2.1
           cell := some (i.windowCell e.1 i.positions e.2.1) }

/-- The selected windows of 4,096 positions (R123, R148). -/
def State.gatherWindows (s : State) (c : Nat) (i : Cur) (sel : Nat → Bool) : State :=
  let m := i.indexCells.foldl (fun a g =>
    a.append (s.moveJob (i.roundBy s c) (s.gatherJob c i g) (fun idx => sel (idx.getD i.axis 0 / 4096)))) Moved.none
  s.applyMoved c i { m with reads := m.reads ++ s.indexReads c i sel }

/-- An index fault leaves the destination undefined (R131). -/
def State.gatherFail (s : State) (c : Nat) (i : Cur) (f : FaultRec) : State := ((s.scrambleWrites c i).bump 1).failMove c i f

/-- After an index fault no element of the run has set a sticky bit: how far the cells had come is open (R125, R131), and R69 names none
(DESIGN CHOICE, log 117). -/
def State.gatherMove (s : State) (c : Nat) (i : Cur) : State :=
  let sel := fun (w : Nat) => decide (i.pos.getD 1 0 ≤ w)
  match s.gatherFault c i 0 sel with
  | some f => s.gatherFail c i f
  | none => (s.gatherWindows c i sel).moved c i

/-- GATHER (R128, R170). -/
def execGather (c : Fin 64) (s : State) : Host.Outcome State Fault Refusal :=
  .next (s.withSetup c opGather (fun t i => t.gatherMove c i))

/-! ## SCATTER (R132 to R138) -/

/-- Accepted positions with their slots, ascending by position; past the route phase, the records that scratch holds. -/
def State.records (s : State) (c : Nat) (i : Cur) (cell n : Nat) : List (Nat × Nat) := match i.recs with
  | some l => l
  | none => (accepted (s.indexList (s.indexView c i cell)) n i.indexMode).zipIdx.filterMap (fun e => e.1.map (fun x => (x, e.2)))

/-- Records grouped by slot, slots in order of first position. -/
def groupSlots : List (Nat × Nat) → List (Nat × List Nat)
  | [] => []
  | r :: t =>
    let g := groupSlots t
    match g.find? (fun e => decide (e.1 = r.1)) with
    | some e => (r.1, r.2 :: e.2) :: g.filter (fun e => decide (e.1 ≠ r.1))
    | none => (r.1, [r.2]) :: g

/-- R136, R137: the ranks of the owners that receive more than 16 runs of 16,384 records. -/
def overfull (recs : List (Nat × Nat)) (c : Nat) : List Nat :=
  (List.range c).filter (fun j => decide (262144 < (recs.filter (fun r => decide (r.1 % c = j))).length))

/-- One of several cells that find the same fault: which of them reports it is a free choice (DESIGN CHOICE, log 37). -/
def State.reporter (s : State) (l : List Nat) : Option Nat := l[Config.draw s.free % max 1 l.length]?

/-- The writer whose slice a slot receives under FAULT, ANY and LAST (R133). -/
def pickWriter (combine seed : Nat) (slot : Nat) (ps : List Nat) : Nat :=
  if combine = 1 ∧ 1 < ps.length then ps.getD (Config.draw (seed + slot) % ps.length) 0
  else ps.getLastD 0

/-- Indices of a shape with one coordinate fixed. -/
def sliceIndices (ext : List Nat) (axis at_ : Nat) : List (List Nat) :=
  (indices (ext.set axis 1)).map (fun idx => idx.set axis at_)

/-- One element that a writer brings to a location. -/
structure Landing where
  pos : Nat                  -- position of the writer (R123, R139)
  prio : Nat                 -- the writer of greatest priority is the one kept under FAULT, ANY and LAST (R133)
  num : Nat                  -- its place among the numbers its owner draws
  cell : Nat                 -- owner cell (R136)
  loc : Loc
  dst : List Nat
  val : Num                  -- the source value
  bits : Nat                 -- what it writes if it is kept, or alone
  flags : BitVec 5
  values : List Num
  reads : List Access

/-- The landings of one unit of a copy. -/
def State.unitLandings (s : State) (j : Job) (r : RoundBy) (pass : Bool) (num : Nat) (u : List Nat) (pos prio : Nat) : List Landing :=
  let m := s.moveUnit j r pass num u
  m.writes.zipIdx.map (fun e =>
    { pos := pos, prio := prio, num := 32 * num, cell := j.cell u, loc := e.1.1, dst := u, val := s.readVal (j.src.here (j.cell u)) ((j.from_ u).getD u), bits := e.1.2
      flags := m.flags, values := if e.2 = 0 then m.values else [], reads := if e.2 = 0 then m.reads else [] })

/-- Landings of one location together, in position order. -/
def groupLandings : List Landing → List (List Landing)
  | [] => []
  | l :: t =>
    let g := groupLandings t
    match g.find? (fun e => decide ((e.map (·.loc)).head? = some l.loc)) with
    | some e => (l :: e) :: g.filter (fun e => decide ((e.map (·.loc)).head? ≠ some l.loc))
    | none => [l] :: g

/-- The landing of greatest priority; the later among equals. -/
def topLanding (h : Landing) (t : List Landing) : Landing := t.foldl (fun a l => if l.prio < a.prio then a else l) h

/-- A choice among writers by position: the greatest, and under ANY a free one (R133). -/
def State.writerPrio (s : State) (i : Cur) (p : Nat) : Nat := if i.combine = 1 then Config.draw (s.free + p) else p

/-- What one location receives (R133, R134). `curAt` is where the element D held in its current generation lies, which joins under ACC. ADD is the floating one
where either format is (DESIGN CHOICE, log 142). -/
def State.landGroup (s : State) (i : Cur) (srcFmt dstFmt : Nat) (curAt : Landing → Loc) (r : RoundBy) (seed : Nat) : List Landing → Moved
  | [] => Moved.none
  | h :: t =>
    let all := h :: t
    let vs := all.flatMap (·.values)
    let rd := all.flatMap (·.reads)
    let out := fun (bits : Nat) (f : BitVec 5) (more : List Access) (n : Nat) =>
      (⟨[(h.loc, bits)], f, vs, rd ++ more, [{ cell := h.cell, part := (0, 0), loc := h.loc }], n, 0⟩ : Moved)
    if i.combine < 3 then out (topLanding h t).bits (topLanding h t).flags [] 0
    else if t.isEmpty ∧ i.acc = false then out h.bits h.flags [] 0
    else
      let cur := if i.acc then [decodeElem dstFmt (s.readLoc (curAt h))] else []
      let nums := all.map (·.val) ++ cur
      let e := encodeElem dstFmt (r.at_ h.cell h.num) r.sat (combineNums i.combine (fmtFloat srcFmt || fmtFloat dstFmt) seed nums)
      out e.1 e.2 (if i.acc then [{ cell := h.cell, part := (0, 0), loc := curAt h }] else []) (2 * nums.length)

/-- What the locations receive whose first writer lies in a selected window: each is written once, by all its writers. `prios` free values
have gone into the writers' priorities. -/
def State.landMoved (s : State) (i : Cur) (srcFmt dstFmt : Nat) (curAt : Landing → Loc) (r : RoundBy) (sel : Nat → Bool) (prios : Nat)
    (ls : List Landing) : Moved :=
  let first := fun (g : List Landing) => (g.map (·.pos)).foldl min ((g.map (·.pos)).headD 0)
  let seed := s.free + 1 + prios
  let m := ((groupLandings ls).filter (fun g => sel (first g / 4096))).foldl (fun a g =>
    a.append (s.landGroup i srcFmt dstFmt curAt r (seed + a.used) g)) Moved.none
  { m with used := m.used + prios, drawn := if r.mode = 2 then 32 * ls.length else 0 }

/-- The element D held in its current generation (R133). -/
def State.currentLoc (s : State) (c : Nat) (i : Cur) (k : Nat) (l : Landing) : Loc :=
  match i.descAt k with
  | some d =>
    if d.space = 0 then
      let e := s.readEntry c i d.window
      descLoc d none (fun _ => .stack (c, d.window) e e.current) l.dst
    else l.loc
  | none => l.loc

/-- The owner cell of a slot of a stack destination (R136); in staging each cell owns its slots. -/
def Cur.owner (i : Cur) (k cell slot : Nat) : Nat := if i.slotSpace k = 0 then i.cells.getD (slot % max 1 i.cells.length) cell else cell

/-- The landings of a SCATTER's accepted records in one cell, or of all of them with stack operands (R132). -/
def State.scatterLandings (s : State) (c : Nat) (i : Cur) (cell : Nat) : List Landing :=
  let src := s.slotView c i 0 cell
  let dst := s.slotView c i 2 cell
  let job := fun (p x : Nat) =>
    ({ src := src, dst := dst, from_ := fun idx => some (idx.set i.axis p), cell := fun _ => i.owner 2 cell x } : Job)
  let pass := dst.mx && (job 0 0).passthrough
  let per := prodNat (dst.ext.set i.axis 1)
  (s.records c i cell (dst.ext.getD i.axis 0)).flatMap (fun e =>
    let us := (sliceIndices dst.ext i.axis e.1).filter (fun u => !dst.mx || decide (u.getD dst.axis 0 % 32 = 0))
    us.zipIdx.flatMap (fun u =>
      s.unitLandings (job e.2 e.1) (i.roundBy s c) pass (e.2 * per + u.2) u.1 e.2 (s.writerPrio i e.2)))

/-- The apply phase, for the selected windows. -/
def State.scatterApply (s : State) (c : Nat) (i : Cur) (sel : Nat → Bool) : State :=
  s.applyMoved c i (i.indexCells.foldl (fun a g =>
    let ls := s.scatterLandings c i g
    a.append (s.landMoved i (s.slotView c i 0 g).fmt (s.slotView c i 2 g).fmt (s.currentLoc c i 2) (i.roundBy s c) sel
      (if i.combine = 1 then ls.length else 0) ls)) Moved.none)

/-- Any slot selected twice (COMBINE = FAULT, R133). -/
def State.scatterClash (s : State) (c : Nat) (i : Cur) : Option Nat :=
  i.indexCells.find? (fun g =>
    (groupSlots (s.records c i g ((i.slotExts 2).getD i.axis 0))).any (fun e => decide (1 < e.2.length)))

def aliasFault (slot : Nat) : FaultRec := { code := fcAlias, stage := 4, slot := some slot }
def runFault (slot : Nat) : FaultRec := { code := fcShape, stage := 4, slot := some slot }

/-- S, I and D all lie in staging (R138). -/
def Cur.allCell (i : Cur) : Bool := [0, 1, 2].all (fun k => decide (i.slotSpace k = 1))

/-- The instruction enters its phases, or goes on in the phase in which it halted (R148). -/
def State.enterPhases (s : State) (c : Nat) (i : Cur) (steps : Nat) : State := s.setHead c { i with phase := .moving, steps := steps }

def State.scatterStart (s : State) (c : Nat) (i : Cur) : State :=
  match if i.recs.isNone then s.gatherFault c i 2 (fun _ => true) else none with
  | some f => (s.bump 1).failMove c i f
  | none =>
    if i.allCell then
      if i.combine = 0 ∧ (s.scatterClash c i).isSome then s.failMove c i { aliasFault 2 with cell := s.scatterClash c i }
      else ((s.scatterApply c i (fun _ => true)).applyMoved c i { Moved.none with reads := s.indexReads c i (fun _ => true) }).moved c i
    else s.enterPhases c i (if i.combine = 0 then 5 else 4)

/-- SCATTER (R132, R170). -/
def execScatter (c : Fin 64) (s : State) : Host.Outcome State Fault Refusal :=
  .next (s.withSetup c opScatter (fun t i => t.scatterStart c i))

/-! ## The combine path of CVT (R39, R139) -/

/-- The owner of a record of the combine path, wherever its element lies (R136, R139). -/
def Cur.slotOwner (i : Cur) (cell slot : Nat) : Nat := i.cells.getD (slot % max 1 i.cells.length) cell

/-- One record per element of the write descriptor, for the copy of rank `rank`: its slot is the element's byte offset, its position that
of R123. The scale of an MX block goes with the block's last element. Which of several copies comes last at one position is free (DESIGN CHOICE, log 22). -/
def State.cvtLandings (s : State) (c : Nat) (i : Cur) (cell rank : Nat) : List Landing :=
  let j := s.cellJob c i cell
  let job : Job := { j with cell := fun u => i.slotOwner cell (j.dst.at_ u).byte }
  let pass := j.passthrough
  let n := prodNat j.dst.ext
  let tie := fun (p : Nat) => if i.copyCells.length ≤ 1 then 0 else Config.draw (s.free + n + rank * n + p) % 2 ^ 32
  j.units.zipIdx.flatMap (fun u =>
    let at_ := (job.members u.1).map (positionOf j.dst.ext)
    (s.unitLandings job (i.roundBy s c) pass u.2 u.1 0 0).zipIdx.map (fun l =>
      let p := if j.dst.mx ∧ 0 < l.2 then at_.getD (l.2 - 1) 0 else at_.getLastD 0
      { l.1 with pos := p, prio := s.writerPrio i p * 2 ^ 32 + tie p }))

/-- The owners with too many records, of all copies (R137, R139). -/
def State.cvtOverfull (s : State) (c : Nat) (i : Cur) : List Nat :=
  overfull (i.copyCells.flatMap (fun g =>
    let v := s.slotView c i 1 g
    (indices v.ext).map (fun u => ((v.at_ u).byte, 0)))) i.cells.length

/-- The apply phase of the combine path, for the selected windows. All writers of one location meet at its owner, whichever cell carries
out their copy. -/
def State.cvtApply (s : State) (c : Nat) (i : Cur) (sel : Nat → Bool) : State :=
  let g0 := i.cells.headD 0
  let ls := i.copyCells.zipIdx.flatMap (fun e => s.cvtLandings c i e.1 e.2)
  let prios := if i.combine = 1 ∨ 1 < i.copyCells.length then ls.length + prodNat (i.slotExts 1) else 0
  let t := match i.tileAt 0 with
    | some tr => s.readTiles i (fun _ row => (List.range tr.n).any (fun k => sel (positionOf [tr.n, tr.rows] [k, row] / 4096)))
    | none => s
  (t.applyMoved c i (s.landMoved i (s.slotView c i 0 g0).fmt (s.slotView c i 1 g0).fmt (s.currentLoc c i 1) (i.roundBy s c) sel prios
    ls)).writeAmax c i s (fun idx => sel (positionOf (i.slotExts 0) idx / 4096))

def State.cvtMove (s : State) (c : Nat) (i : Cur) : State := if i.combinePath then s.enterPhases c i 4 else s.copyMove c i

/-- CVT (R173). -/
def execCvt (c : Fin 64) (s : State) : Host.Outcome State Fault Refusal :=
  .next (s.withSetup c opCvt (fun t i => t.cvtMove c i))

/-! ## BUCKET (R140 to R142) -/

/-- Bucket and rank within the bucket of each position. -/
def bucketRanks : List (Option Nat) → List (Option (Nat × Nat)) := fun l =>
  (l.foldl (fun (out, cnt) b => match b with
    | none => (out ++ [none], cnt)
    | some x =>
      let r := tabGet 0 cnt x
      (out ++ [some (x, r)], tabSet 0 cnt x (r + 1))) (([] : List (Option (Nat × Nat))), ([] : Tab Nat))).1

structure Buckets where
  hist : List Nat
  inv : List Int
  spos : List Int
deriving DecidableEq, Repr

/-- −1 where there is no number. -/
def optInt (o : Option Nat) : Int := match o with
  | some v => (v : Int)
  | none => -1

/-- R140: the three outputs. -/
def bucketOut (keys : List (Option Nat)) (b cap : Nat) (padded : Bool) : Buckets :=
  let ranks := bucketRanks keys
  let hist := (List.range b).map (fun x => (keys.filter (fun k => decide (k = some x))).length)
  let kept := hist.map (fun h => if cap = 0 then h else min h cap)
  let start := fun (x : Nat) => if padded then x * cap else sumNat (kept.take x)
  let slot := ranks.map (fun r => match r with
    | some (x, k) => if cap = 0 ∨ k < cap then some (start x + k) else none
    | none => none)
  let size := if padded then b * cap else keys.length
  { hist := hist
    inv := slot.map (fun q => optInt q)
    spos := (List.range size).map (fun q => optInt (slot.findIdx? (fun v => decide (v = some q)))) }

/-- Writes of an INT32 vector through a slot. -/
def State.vecWrites (s : State) (c : Nat) (i : Cur) (k : Nat) (l : List Int) : List (Loc × Nat) :=
  match i.descAt k with
  | some d => l.zipIdx.map (fun e => (s.tensorLoc c i k d 0 [e.2], wrapTo 32 e.1))
  | none => []

def State.bucketKeys (s : State) (c : Nat) (i : Cur) : List (Option Nat) :=
  accepted (s.indexList (s.indexView c i (i.cells.headD 0))) i.bCount i.indexMode

/-- The place phase: SPOS and INV entries of positions in selected windows, and with `all` every unfilled entry and HIST. -/
def State.bucketPlace (s : State) (c : Nat) (i : Cur) (sel : Nat → Bool) (all : Bool) : State :=
  let o := bucketOut (s.bucketKeys c i) i.bCount i.bCap i.bPadded
  let at_ := fun (p : Nat) => i.windowCell (i.cells.headD 0) i.positions p
  let spos := ((s.vecWrites c i 1 o.spos).zip o.spos).filter (fun e => if e.2 < 0 then all else sel (e.2.toNat / 4096))
  let inv := (s.vecWrites c i 2 o.inv).zipIdx.filter (fun e => sel (e.2 / 4096))
  let w := spos.map (fun e => (at_ e.2.toNat, e.1)) ++ inv.map (fun e => (at_ e.2, e.1))
    ++ (if all then (s.vecWrites c i 3 (o.hist.map (fun (h : Nat) => (h : Int)))).map (fun e => (i.cells.headD 0, e)) else [])
  s.applyMoved c i { Moved.none with
    writes := w.map (·.2), stores := w.map (fun e => { cell := e.1, part := (0, 0), loc := e.2.1 }), reads := s.indexReads c i sel }

/-- Index faults arise in the count phase (R142). -/
def State.bucketStart (s : State) (c : Nat) (i : Cur) : State :=
  match if i.step = 0 then s.gatherFault c i 0 (fun _ => true) else none with
  | some f => (s.bump 1).failMove c i f
  | none => s.enterPhases c i 3

/-- BUCKET (R140, R171). -/
def execBucket (c : Fin 64) (s : State) : Host.Outcome State Fault Refusal :=
  .next (s.withSetup c opBucket (fun t i => t.bucketStart c i))

/-! ## SORTK (R143 to R145) -/

/-- R143: the order of keys, NaN greatest and all NaNs equal. -/
def keyLt (a b : Num) : Bool := match a, b with
  | .nan _, _ => false
  | _, .nan _ => true
  | .fin _ 0 _, .fin _ 0 _ => false
  | a, b => numLt a b

/-- Insertion keeps equal keys in order of arrival. -/
def insertKey (asc : Bool) (a : Num × Nat) : List (Num × Nat) → List (Num × Nat)
  | [] => [a]
  | b :: t => if (if asc then keyLt a.1 b.1 else keyLt b.1 a.1) then a :: b :: t else b :: insertKey asc a t

def sortKeys (asc : Bool) (l : List (Num × Nat)) : List (Num × Nat) := l.foldl (fun acc a => insertKey asc a acc) []

/-- One sorted row of one cell. -/
def State.sortRow (s : State) (c : Nat) (i : Cur) (cell row : Nat) : Moved :=
  let v := s.slotView c i 0 cell
  let n := v.ext.getD 0 0
  let keys := (List.range n).map (fun p => (s.readVal v [p, row], p))
  let sorted := (sortKeys (i.b 22) keys).take i.kCount
  let out := fun (slot : Nat) (val : Nat → Nat) => match i.descAt slot with
    | some d => sorted.zipIdx.map (fun e => (s.tensorLoc c i slot d cell [e.2, row], val e.1.2))
    | none => []
  Moved.plain (if 1 < i.indexCells.length then cell else i.cells.getD (row % max 1 i.cells.length) cell)
    (out 1 (fun p => p % 2 ^ 32) ++ out 2 (fun p => s.readLoc (v.at_ [p, row]))) ((List.range n).map (fun p => v.at_ [p, row]))

/-- The selected rows. -/
def State.sortRows (s : State) (c : Nat) (i : Cur) (sel : Nat → Bool) : State :=
  let rows := (List.range ((i.slotExts 0).getD 1 1)).filter sel
  s.applyMoved c i (i.indexCells.foldl (fun a g => rows.foldl (fun a r => a.append (s.sortRow c i g r)) a) Moved.none)

/-- Bytes of a key as the radix passes take it (R145). -/
def Cur.keyDigits (i : Cur) : Nat := ceilDiv (max 8 (fmtBits (i.slotFmt 0))) 8

/-- SORTK for fewer than all keys of a row. -/
def Cur.topK (i : Cur) : Bool := decide (i.kCount ≠ (i.slotExts 0).getD 0 0)

/-- Passes over one row of more than 4,096 keys (R145). -/
def Cur.sortPasses (i : Cur) : Nat := if i.topK then 2 * i.keyDigits + 1 else i.keyDigits

def Cur.longRows (i : Cur) : Bool := decide (4096 < (i.slotExts 0).getD 0 0)

def State.sortStart (s : State) (c : Nat) (i : Cur) : State :=
  if i.longRows then s.enterPhases c i (3 * i.sortPasses * (i.slotExts 0).getD 1 1)
  else (s.sortRows c i (fun r => decide (i.pos.getD 1 0 ≤ r))).moved c i

/-- SORTK (R144, R172). -/
def execSortk (c : Fin 64) (s : State) : Host.Outcome State Fault Refusal :=
  .next (s.withSetup c opSortk (fun t i => t.sortStart c i))

/-! ## Phases (R136, R142, R145, R147)

SCATTER and the combine path: 0 count, 1 offsets, 2 route, 3 sort, 4 check under FAULT, then apply. BUCKET: 0 count, 1 and 2 offsets,
3 place. SORTK of long rows: three phases for each pass, 0 count, 1 offsets, 2 place. -/

/-- The use of scratch in one phase: write or read, first byte, bytes (R127, R147; its layout within scratch:
DESIGN CHOICE, log 19). -/
def Cur.scratchUse (i : Cur) (recs : Nat) (phase : Nat) : List (Bool × Nat × Nat) :=
  let c := i.cells.length
  if i.is opBucket then
    let t := c * i.bCount * 4
    [(decide (phase % 2 = 0), 0, t)]
  else if i.is opSortk then
    let n := (i.slotExts 0).getD 0 0
    match phase % 3 with
    | 0 => [(true, 16 * n, c * 1024)]
    | 1 => [(false, 16 * n, c * 1024), (true, 16 * n, c * 1024)]
    | _ => [(false, 16 * n, c * 1024), (false, 0, 8 * n), (true, 8 * n, 8 * n)]
  else
    let n := if i.is opCvt then prodNat (i.slotExts 1) else i.positions
    let t := c * c * 4
    match phase with
    | 0 => [(true, 16 * n, t)]
    | 1 => [(false, 16 * n, t), (true, 16 * n, t)]
    | 2 => [(false, 16 * n, t), (true, 0, 8 * recs)]
    | 3 => [(false, 0, 8 * recs), (true, 8 * n, 8 * recs)]
    | _ => [(false, 8 * n, 8 * recs)]

/-- Requests over a stretch of scratch, in whole granules. -/
def State.scratchPass (s : State) (c : Nat) (i : Cur) (u : Bool × Nat × Nat) : State := match i.descOfRole .scratch with
  | none => s
  | some d =>
    let e := s.winEff c d.window
    let g := touchWhole ((List.range (ceilDiv u.2.2 64)).map (fun k => e.xlate e.current (d.offset + u.2.1 / 64 * 64 + 64 * k)))
    (s.ask { write := u.1, by_ := .instr c, slice := s.sliceOf c, window := some (c, d.window) } g).addBytes c (granBytes g)

/-- The stack traffic of the phase that is over, apart from an apply or place phase's own reads and writes (R147). -/
def State.phaseTraffic (s : State) (c : Nat) (i : Cur) : State :=
  let recs := if i.is opScatter then (s.records c i (i.cells.headD 0) ((i.slotExts 2).getD i.axis 0)).length else prodNat (i.slotExts 1)
  let s1 := (i.scratchUse recs i.step).foldl (fun t u => t.scratchPass c i u) s
  if i.step = 0 ∧ (i.is opScatter ∨ i.is opBucket) then s1.applyMoved c i { Moved.none with reads := s.indexReads c i (fun _ => true) } else s1

/-- The apply or place phase, for the selected windows. -/
def State.applyPhase (s : State) (c : Nat) (i : Cur) (sel : Nat → Bool) (all : Bool) : State :=
  if i.is opScatter then s.scatterApply c i sel else if i.is opCvt then s.cvtApply c i sel else s.bucketPlace c i sel all

/-- The engaged cell of a rank. -/
def Cur.rankOf (i : Cur) (j : Nat) : Nat := i.cells.getD j 0

/-- The owner cells that find a slot selected twice (R136). -/
def State.clashOwners (s : State) (c : Nat) (i : Cur) : List Nat :=
  (i.indexCells.flatMap (fun g => ((groupSlots (s.records c i g ((i.slotExts 2).getD i.axis 0))).filter (fun e =>
    decide (1 < e.2.length))).map (fun e => i.owner 2 g e.1))).eraseDups

/-- What ends the instruction as a phase ends: the run limit after the sort, FAULT collisions after the check (R136, R137), each reported by
an owner cell that finds it (R401). -/
def State.phaseFault (s : State) (c : Nat) (i : Cur) : Option FaultRec :=
  if i.is opScatter then
    let n := (i.slotExts 2).getD i.axis 0
    let l := if i.step = 3 then overfull (s.records c i (i.cells.headD 0) n) i.cells.length else []
    let l2 := if i.step = 4 ∧ i.combine = 0 then s.clashOwners c i else []
    if !l.isEmpty then some { runFault 2 with cell := s.reporter (l.map i.rankOf) }
    else if !l2.isEmpty then some { aliasFault 2 with cell := s.reporter l2 }
    else none
  else if i.is opCvt then
    let l := if i.step = 3 then s.cvtOverfull c i else []
    if l.isEmpty then none else some { runFault 1 with cell := s.reporter (l.map i.rankOf) }
  else none

/-- A phase of SORTK is over; with the last of a row's passes the row is written, with the last row the instruction has moved its
data. -/
def State.sortBarrier (s : State) (c : Nat) (i : Cur) : State :=
  let k := i.step + 1
  let row := 3 * i.sortPasses
  let s1 := if k % max 1 row = 0 then s.sortRows c i (fun r => decide (r + 1 = k / max 1 row)) else s
  if i.steps ≤ k then s1.moved c i else s1.setHead c { i with step := k, pos := [] }

/-- Every engaged cell has finished a phase: the next begins, or the instruction has moved its data. Entries that a synchronisation has
dropped meanwhile are read again (R42). -/
def State.barrier (s : State) (c : Nat) (i : Cur) : State :=
  let s1 := (s.rereadEntries c i).phaseTraffic c i
  if i.is opSortk then s1.sortBarrier c i
  else if i.steps ≤ i.step then (s1.applyPhase c i (fun w => decide (i.pos.getD 1 0 ≤ w)) true).moved c i
  else match s.phaseFault c i with
    | some f => (s1.bump 1).failMove c i f
    | none =>
      let recs := if i.is opScatter ∧ i.step = 2 then some (s.records c i (i.cells.headD 0) ((i.slotExts 2).getD i.axis 0)) else i.recs
      s1.setHead c { i with step := i.step + 1, pos := [], recs := recs }

/-! ## Halting and resuming (R148) -/

/-- Where a resumed instruction begins: a count or offsets phase and a histogram pass begin anew, every other phase goes on from the saved
window. -/
def Cur.resumeAt (i : Cur) (low : Nat) : Nat × Nat :=
  if i.is opSortk then
    if i.topK ∧ i.step / 3 % max 1 i.sortPasses < i.keyDigits then (i.step / 3 * 3, 0)
    else (i.step, if i.step % 3 < 2 then 0 else low)
  else if i.is opBucket ∧ i.step = 2 then (1, 0)
  else (i.step, if i.step < (if i.is opBucket then 3 else 2) then 0 else low)

/-- The context's index instruction is in one of its phases. -/
def State.movingHead (s : State) (c : Nat) : Option Cur := match s.head c with
  | some i => if s.running c ∧ s.switchedOut c = false ∧ i.phase = .moving then some i else none
  | none => none

/-- INDEX_PHASE_BARRIER (R142). The Lattice transfers of the phase check the parity of what they read (R365). -/
def execIndexPhaseBarrier (c : Fin 64) (s : State) : Host.Outcome State Fault Refusal :=
  .next (match s.movingHead c with
    | some i =>
      match s.upsetSlice i with
      | some n => ((s.scrambleWrites c i).scrambleBuffers c i).upsetAtUse c i n
      | none => if s.resident c i then s.barrier c i else
      let r := i.resumeAt (i.pos.getD 1 0)
      (s.scrambleBuffer i).stopResidency c { i with phase := .ready, step := r.1, pos := [r.1, r.2] }
    | none => s)

/-- An accumulation into the element itself: neither through write-aside space nor from a generation of its own, so that a window above the
saved one is carried out only once. -/
def Cur.addsInPlace (i : Cur) : Bool := i.is opCvt && i.acc && (decide (i.slotSpace 1 = 1) || i.nonatomic)

/-- Windows that are complete at a halt: those below the lowest one that is not, and those the list names above it (R148). -/
def Cur.doneWindows (i : Cur) (progress : List Nat) (w : Nat) : Bool :=
  decide (i.pos.getD 1 0 ≤ w) && (decide (w < progress.headD 0) || (!i.addsInPlace && (progress.drop 1).contains w))

/-- Halting an index instruction: the phase and the lowest window of it not complete (R148). -/
def State.haltIndex (s : State) (c : Nat) (i : Cur) (progress : List Nat) : State :=
  let lo := i.pos.getD 1 0
  let low := max lo (progress.headD 0)
  let sel := i.doneWindows progress
  if i.phase = .moving then
    let s1 := if i.is opSortk = false ∧ i.steps ≤ i.step then s.applyPhase c i sel false else s
    let r := i.resumeAt low
    s1.setHead c { i with step := r.1, pos := [r.1, r.2] }
  else if i.is opGather then (s.gatherWindows c i sel).setHead c { i with pos := [0, low] }
  else if i.is opSortk ∧ i.longRows = false then (s.sortRows c i sel).setHead c { i with pos := [0, low] }
  else s.setHead c { i with pos := [i.step, lo] }

end Sys2Proof.Machine
end

