-- ==== Sys2Proof/Machine/Sync.lean ====
section
/-!
DEFINITION. The recipe front end (R149 to R154, R189, R190), retirement (R192), halting (R420), and the instructions that
synchronise: NOP, HALT, SWAIT, SSIGNAL, FENCE (R177, R180, R193 to R199, R206).
-/
namespace Sys2Proof.Machine

/-! ## Fetching and decoding ahead -/

/-- RLEN (R398). -/
def State.rlen (s : State) (c : Nat) : Nat := 2 ^ (max 2 (min 24 (s.ctx c).cfg.rcpSize.toNat))

/-- Window and byte offset of the recipe ring. -/
def State.ringAt (s : State) (c : Nat) : Nat × Nat :=
  let r := (s.ctx c).cfg.rcpBase.toNat
  (field r 57 48, field r 47 6 * 64)

/-- Number of the first instruction neither decoded nor fetched. -/
def State.nextFetch (s : State) (c : Nat) : BitVec 32 :=
  let x := s.ctx c
  x.run.head + BitVec.ofNat 32 (x.cur.length + x.fetched.length)

/-- Instructions from `n` up to the tail. -/
def State.leftFrom (s : State) (c : Nat) (n : BitVec 32) : Nat := ((s.ctx c).run.tail - n).toNat

/-- Whether a context makes progress: RUNNING or WAITING, and not switched out (R182). -/
def State.active (s : State) (c : Nat) : Bool :=
  decide ((s.ctx c).run.st = .running ∨ (s.ctx c).run.st = .waiting) && !s.switchedOut c

/-- Whether nothing decoded so far keeps the next instruction from being decoded: no marked dependence, no fault (R189,
R154). -/
def State.decodeOpen (s : State) (c : Nat) : Bool := match (s.ctx c).cur.getLast? with
  | some i => !marked i.op && i.fault.isNone
  | none => true

/-- Opcode of a word. -/
def wordOp (w : BitVec 128) : Nat := field w.toNat 127 120

/-- An SWAIT that has been fetched or decoded has not retired: no access is made for what stands behind it (R188). -/
def State.behindSwait (s : State) (c : Nat) : Bool :=
  (s.ctx c).cur.any (fun i => i.is opSwait) || (s.ctx c).fetched.any (fun e => decide (wordOp e.2 = opSwait))

/-- Words up to and with the first SWAIT. -/
def upToSwait : List (BitVec 32 × BitVec 128) → List (BitVec 32 × BitVec 128)
  | [] => []
  | e :: t => if wordOp e.2 = opSwait then [e] else e :: upToSwait t

/-- A fetch that fails is a decoded instruction that carries only its fault (R149, R402). -/
def faulted (n : BitVec 32) (f : FaultRec) : Cur := ⟨n, 0, [], [], none, some f, .ready, 0, 0, [], false, false, [], none⟩

/-- The failures of a recipe fetch (R149, R264). -/
def State.ringFault (s : State) (c : Nat) (off : Nat) : Option FaultRec :=
  let (w, base) := s.ringAt c
  firstFail [ s.entryTimeout c w 1 0, s.fetchCheck c w base (16 * s.rlen c) (fun k => decFault k 0 none), s.fetchTimeout c w off 1 0 ]

/-! ## Reads of the descriptor fetcher and the owner-table walker (R264, R402)

Each group of reads names the stage and step that its failure is reported at, and the window that translates it. -/

abbrev ReadGroup := Nat × Nat × Option (Nat × Nat) × List (Nat × Nat)

def State.entryReads (s : State) (c : Nat) (ws : List Nat) (stage step : Nat) : List ReadGroup :=
  (s.missing c ws).map (fun o => (stage, step, none, [s.winAddr o.1 o.2]))

def State.recordRead (s : State) (c w off len stage step : Nat) : ReadGroup :=
  let e := s.winEff c w
  (stage, step, some (c, w), (List.range (ceilDiv len 64)).map (fun k => e.xlate e.current (off + 64 * k)))

/-- What decode and validation of a format D instruction read: the operand table, the records, the entries of their windows and of
the operands' windows, Ledger entries. -/
def State.decodeReads (s : State) (c : Nat) (i : Cur) : List ReadGroup :=
  if i.infoFmt ≠ .d then []
  else
    let recs := i.recordSlots.map i.entry
    let ws := (recs.map entryWindow).filter (fun w => decide (w ≠ i.otWin))
    s.entryReads c [i.otWin] 1 4 ++ [s.recordRead c i.otWin i.otOff 64 1 4] ++ s.entryReads c ws 2 2
      ++ recs.map (fun e => s.recordRead c (entryWindow e) (entryOffset e) (recordLen (entryKind e)) 2 2)
      ++ s.entryReads c (i.windows.filter (fun w => !(i.otWin :: ws).contains w)) 2 5
      ++ (s.ledgerReads i).map (fun a => (2, 7, none, [a]))

def State.issueReads (s : State) (c : Nat) (n : BitVec 32) (l : List ReadGroup) : State :=
  l.foldl (fun t r => t.issueAll false (.fetch c n r.1 r.2.1) r.2.2.1 (touchWhole r.2.2.2)) s

/-- The instruction whose recipe piece cannot be read joins the decoded ones with its fault, if decoding has come to it. -/
def State.joinFaulted (s : State) (c : Nat) (n : BitVec 32) (f : FaultRec) : State :=
  let x := s.ctx c
  if x.fetched.isEmpty && s.decodeOpen c then
    let s1 := s.updCtx c (fun y => { y with cur := y.cur ++ [faulted n f] })
    if x.cur.isEmpty then s1.boundary c else s1
  else s

/-- The words of the 64 B piece that holds instruction n, from n on and below the tail, as many as there is room for, and none past an
SWAIT (R188, R189). -/
def State.pieceWords (s : State) (c : Nat) (n : BitVec 32) (room : Nat) : List (BitVec 32 × BitVec 128) :=
  let (w, base) := s.ringAt c
  let e := s.winEff c w
  let k := n.toNat % 4
  upToSwait ((List.range (min room (min (4 - k) (s.leftFrom c n)))).map (fun j =>
    let m := n + BitVec.ofNat 32 j
    (m, BitVec.ofNat 128 (leNat (s.winRead e e.current (base + 16 * (m.toNat % s.rlen c)) 16)))))

/-- RECIPE_FETCH (R149): one aligned 64 B piece, at most 32 instructions ahead (R189). A flip holds its translation (R242). -/
def State.recipeFetch (s : State) (c : Nat) : State :=
  let x := s.ctx c
  let n := s.nextFetch c
  let room := 32 - (x.cur.length + x.fetched.length)
  let (w, base) := s.ringAt c
  if !s.active c || !s.crossRuns || decide (s.leftFrom c n = 0) || decide (room = 0) || s.behindSwait c || s.flipHold c [w] then s
  else
    match s.ringFault c (base + 16 * (n.toNat % s.rlen c)) with
    | some f => s.joinFaulted c n f
    | none =>
      let off := base + 16 * (n.toNat % s.rlen c) / 64 * 64
      let s1 := s.issueReads c n (s.entryReads c [w] 1 0 ++ [s.recordRead c w off 64 1 0])
      ((s1.touchWins c [w]).updCtx c (fun y => { y with fetched := y.fetched ++ s.pieceWords c n room })).addBytes c 64

def execRecipeFetch (c : Fin 64) (s : State) : Host.Outcome State Fault Refusal := .next (s.recipeFetch c)

/-- Stack bytes that decode and validation read: the operand table and its records. -/
def Cur.recordBytes (i : Cur) : Nat :=
  (if i.table.isEmpty then 0 else 64) + 128 * i.descs.length + (if i.stream.isSome then 64 else 0)

/-- At most one format D instruction is validated beyond the one that moves data (R190). -/
def State.decodeRoom (s : State) (c : Nat) (i : Cur) : Bool :=
  i.infoFmt ≠ .d || ((s.ctx c).cur.drop 1).all (fun j => j.infoFmt ≠ .d)

/-- DECODE_VALIDATE (R54, R154, R159, R190). -/
def State.decodeNext (s : State) (c : Nat) : State :=
  let x := s.ctx c
  match x.fetched with
  | [] => s
  | (n, word) :: rest =>
    let i := s.decode c n word
    let ws := i.windows ++ (if i.infoFmt = .d then [i.otWin] else []) ++ (i.recordSlots.map (fun k => entryWindow (i.entry k)))
    if !s.active c || !s.crossRuns || !s.decodeOpen c || !s.decodeRoom c i || s.fetchWaits c n || s.flipHold c ws then s
    else
      let s0 := if i.fault.isNone then s.issueReads c n (s.decodeReads c i) else s
      let s1 := ((s0.touchWins c ws).addBytes c i.recordBytes).updCtx c (fun y => { y with cur := y.cur ++ [i], fetched := rest })
      if x.cur.isEmpty then s1.boundary c else s1

def execDecodeValidate (c : Fin 64) (s : State) : Host.Outcome State Fault Refusal := .next (s.decodeNext c)

/-! ## Instructions that act on the whole context -/

/-- The named instruction stands at HEAD, ready, and the meaning is applied to it. -/
def State.withHead (s : State) (c op : Nat) (f : Cur → State) : State := match s.readyHead c op .ready with
  | some i => f i
  | none => s

/-- The completion interrupt of an instruction with IRQ = 1 in bit 119. -/
def State.completion (s : State) (c : Nat) (i : Cur) : State := if i.b 119 then s.pendCtx c 0 else s

/-- NOP (R180). -/
def execNop (c : Fin 64) (s : State) : Host.Outcome State Fault Refusal :=
  .next (s.withHead c opNop (fun i => s.retireHead c i))

/-- HALT (R206): HEAD moves past it, the context is STOPPED with its CODE, then the completion interrupt. -/
def State.haltMove (s : State) (c : Nat) (i : Cur) : State :=
  let s1 := (s.advance c).stopCtx c 2 0 false
  (s1.updRun c (fun r => { r with haltCode := BitVec.ofNat 16 (i.f 118 103) })).completion c i

def execHalt (c : Fin 64) (s : State) : Host.Outcome State Fault Refusal :=
  .next (s.withHead c opHalt (fun i => s.haltMove c i))

/-! ## Semaphores -/

def Cur.sem (i : Cur) : Nat := i.f 119 110
def Cur.half (i : Cur) : Bool := i.b 109
def Cur.semCount (i : Cur) : Nat := i.f 108 93

def State.setRunState (s : State) (c : Nat) (st : RunState) : State := s.updRun c (fun r => { r with st := st })

/-- The subtraction of an SWAIT and its retirement, in one step (R196). -/
def State.swaitTake (s : State) (c : Nat) (i : Cur) (o p : Nat) : State :=
  let v := s.semGet o p i.half - BitVec.ofNat 32 i.semCount
  ((s.semSet o p i.half v).setRunState c .running).retireHead c i

/-- The instruction at HEAD waits, unless a host STOP or a delivery fault is due, which abandons it (R205, R239). -/
def State.enterWait (s : State) (c : Nat) (i : Cur) (st : RunState) : State :=
  let r := (s.ctx c).run
  if r.stopReq ∨ r.pendFault.isSome then s.boundary c
  else (s.setRunState c st).setHead c { i with phase := .waiting }

/-- SWAIT (R177, R196): joins the queue; at the front and satisfied, it subtracts and retires. -/
def State.swaitMove (s : State) (c : Nat) (i : Cur) : State :=
  match s.semPair c i.sem with
  | none => s.stopFault c (decFault fcBounds 3 none)
  | some (o, p) =>
    if (s.semWaiters o p i.half).isEmpty ∧ i.semCount ≤ (s.semGet o p i.half).toNat then s.swaitTake c i o p
    else
      let s1 := s.updCtx o (fun x => { x with sems := { x.sems with waiters := x.sems.waiters ++ [⟨c, p, i.half, i.semCount⟩] } })
      s1.enterWait c i .waiting

def execSwait (c : Fin 64) (s : State) : Host.Outcome State Fault Refusal :=
  .next (s.withHead c opSwait (fun i => s.swaitMove c i))

/-- A context that waits, with its head. -/
def State.waitHead (s : State) (c op : Nat) : Option Cur := match s.head c with
  | some i => if s.active c ∧ i.op = op ∧ i.phase = .waiting then some i else none
  | none => none

/-- The counter a waiting SWAIT waits on. -/
def State.waitsOn (s : State) (c : Nat) (i : Cur) : Option (Nat × Nat) :=
  (List.range 64).findSome? (fun o =>
    ((s.ctx o).sems.waiters.find? (fun w => decide (w.ctx = c ∧ w.half = i.half))).map (fun w => (o, w.pair)))

/-- The waiter is at the front and its counter is large enough. -/
def State.waiterReady (s : State) (c o p : Nat) (i : Cur) : Bool := match s.semWaiters o p i.half with
  | w :: _ => decide (w.ctx = c ∧ i.semCount ≤ (s.semGet o p i.half).toNat)
  | [] => false

/-- SWAIT_WAKE (R196). -/
def State.swaitWake (s : State) (c : Nat) : State :=
  match s.waitHead c opSwait with
  | none => s
  | some i => match s.waitsOn c i with
    | none => s
    | some (o, p) => if s.waiterReady c o p i then (s.leaveQueues c).swaitTake c i o p else s

def execSwaitWake (c : Fin 64) (s : State) : Host.Outcome State Fault Refusal := .next (s.swaitWake c)

/-- SSIGNAL (R177): BOUNDS on an overflow, with the counter unchanged. -/
def State.ssignalMove (s : State) (c : Nat) (i : Cur) : State :=
  match s.semPair c i.sem with
  | none => s.stopFault c (decFault fcBounds 3 none)
  | some (o, p) => match s.semAdd o p i.half i.semCount with
    | some s1 => s1.retireHead c i
    | none => s.stopFault c { code := fcBounds, stage := 3 }

def execSsignal (c : Fin 64) (s : State) : Host.Outcome State Fault Refusal :=
  .next (s.withHead c opSsignal (fun i => s.ssignalMove c i))

/-! ## Blocks whose parts are complete (R217, R218) -/

/-- Open queues: cell, number, queue. -/
def State.openQueues (s : State) : List (Nat × Nat × Queue) :=
  s.cells.flatMap (fun e => (e.2.queues.filter (fun q => decide (q.2.st ≠ .closed))).map (fun q => (e.1, q.1, q.2)))

/-- The cells where queue q of the context holds block `id`: with whether it is complete there. -/
def State.blockCells (s : State) (c q id : Nat) : List (Nat × Bool) :=
  s.openQueues.filterMap (fun e =>
    if e.2.1 = q ∧ e.2.2.owner = c then
      match e.2.2.blocks.zipIdx.find? (fun b => decide (b.1.id = id)) with
      | some (b, k) =>
        let busy := s.allReqs.any (fun r => match r.2.by_ with
          | .streamWrite g p t => decide (g = e.1 ∧ p = q ∧ t / 2 ^ 21 = e.2.2.blockNo + k)
          | _ => false)
        some (e.1, decide (k = 0 ∧ b.done = b.tokens) && !busy)
      | none => none
    else none)

/-- The signal of a completed block; none where the counter has no room (R218). Where bindings have changed so that the pair no longer
resolves, the block is recorded without a signal (DESIGN CHOICE, log 144). -/
def State.signalBlock (s : State) (c : Nat) (x : Queue) : Option State :=
  match s.semPair c x.sem with
  | some (o, p) => s.semAdd o p (!x.dir) 1
  | none => some s

/-- The queue's first block is complete in every cell and its counter has room, so that BLOCK_COMPLETE records it. -/
def State.recordable (s : State) (c q : Nat) (x : Queue) : Bool := match x.blocks.head? with
  | some b => decide (x.owner = c) && (s.blockCells c q b.id).all (·.2) && (s.signalBlock c x).isSome
  | none => false

/-! ## FENCE (R199) -/

/-- Every block that an SBLOCK of the context appended has been delivered, or written and accepted by its stack ports (R199), and none
of them has still to be recorded (R217). Of a running Carousel the delivery in the queue counts, and not those to come (DESIGN CHOICE, log
145). -/
def State.streamsDone (s : State) (c : Nat) : Bool :=
  s.cells.all (fun e => e.2.queues.all (fun q => decide (q.2.owner ≠ c) || q.2.blocks.all (fun b => decide (b.tokens ≤ b.done))))
    && s.allReqs.all (fun e => match e.2.by_ with
      | .streamWrite g q _ => let x := (s.cell g).queue q
                              decide (x.st = .closed ∨ x.owner ≠ c)
      | _ => true)
    && !s.openQueues.any (fun e => s.recordable c e.2.1 e.2.2)

/-- No WRITE of the context awaits its WRITE_ACK. -/
def State.writesDone (s : State) (c : Nat) : Bool := (s.fab.txns ++ s.fab.waiting).all (fun t => !t.write || decide (t.ctx ≠ c))

def State.fenceHolds (s : State) (c : Nat) (i : Cur) : Bool :=
  (!i.b 118 || s.streamsDone c) && (!i.b 117 || s.writesDone c)

def State.fenceMove (s : State) (c : Nat) (i : Cur) : State :=
  if s.fenceHolds c i then ((s.setRunState c .running).retireHead c i).completion c i
  else s.enterWait c i .waiting

def execFence (c : Fin 64) (s : State) : Host.Outcome State Fault Refusal :=
  .next (s.withHead c opFence (fun i => s.fenceMove c i))

/-! ## Retirement -/

/-- No request of the instruction is waiting or outstanding, nor a read of a window entry for it. -/
def State.portsQuiet (s : State) (c : Nat) : Bool := !s.outstanding (.instr c) && !s.outstanding (.save c)

/-- Every frame the context has to send has left this node (R192). -/
def State.framesGone (s : State) (c : Nat) : Bool :=
  let mine := fun (f : Frame) => decide (f.hdr.src = s.fab.addr ∧ f.hdr.ctx.toNat = c ∧ f.hdr.op.toNat = opWrite)
  s.fab.ports.all (fun e => !e.2.txq.any mine) && !s.fab.loop.any mine
    && s.fab.waiting.all (fun t => !t.write || decide (t.ctx ≠ c))

/-- No READ_REQ of the context is unanswered. -/
def State.readsDone (s : State) (c : Nat) : Bool := (s.fab.txns ++ s.fab.waiting).all (fun t => t.write || decide (t.ctx ≠ c))

/-- R192, for an instruction whose data movement is over. -/
def State.mayRetire (s : State) (c : Nat) (i : Cur) : Bool :=
  s.portsQuiet c && !s.fetchWaits c i.n && (if i.is opRget then s.readsDone c else if i.is opRput || i.is opReshard then s.framesGone c else true)

/-- INSTRUCTION_RETIRE (R192). A FENCE that waits retires when its conditions hold. -/
def State.instructionRetire (s : State) (c : Nat) : State :=
  match s.head c with
  | none => s
  | some i =>
    if !s.active c then s
    else if i.phase = .moved then
      if s.mayRetire c i then
        let s1 := s.retireHead c i
        if i.is opCtxsave then s1.completion c i else s1
      else s
    else if i.phase = .waiting ∧ i.is opFence then
      (if s.fenceHolds c i then s.fenceMove c i else s)
    else s

def execInstructionRetire (c : Fin 64) (s : State) : Host.Outcome State Fault Refusal := .next (s.instructionRetire c)

/-! ## Halt points (R420) -/

/-- Whether R420 gives the instruction a halt point. -/
def Cur.hasHaltPoint (i : Cur) : Bool :=
  i.is opTload || i.isFabric
    || (i.hasStack && [opTstore, opPerm, opRot, opCvt, opReblock, opAmax, opGather, opScatter, opBucket, opSortk].contains i.op)

end Sys2Proof.Machine
end

