-- ==== Sys2Proof/Machine/Generations.lean ====
section
/-!
DEFINITION. Generations, the flip and catch-up (R162, R178, R241 to R251), window synchronisation (R48), the save area,
CTXSAVE, context switches and replay (R207, R255 to R259), and the wait bound (R197, R245, R252).
-/
namespace Sys2Proof.Machine

/-! ## GEN, COMMIT, ABORT -/

/-- GEN (R178, R307 step 1). -/
def State.genMove (s : State) (c : Nat) (i : Cur) : State :=
  if (s.ctx c).gen.isOpen then s.stopFault c { code := fcShape, stage := 3 }
  else if i.b 119 then
    let s1 := s.updGen c (fun g => { g with member := .joining })
    (s1.toCoord c opGenJoin 0).setHead c { i with phase := .waiting }
  else (s.openLocal c).retireHead c i

def execGen (c : Fin 64) (s : State) : Host.Outcome State Fault Refusal :=
  .next (s.withHead c opGen (fun i => s.genMove c i))

/-- A COMMIT or ABORT retires: the replay head moves behind it (R255), then the completion interrupt of a COMMIT. -/
def State.endSpan (s : State) (c : Nat) (i : Cur) : State :=
  let s1 := (s.setReplayHead c (i.n + 1)).retireHead c i
  if i.is opCommit then s1.completion c i else s1

/-- RESIDENCY of the save window, for an instruction that has moved no data. -/
def State.saveFault (s : State) (c : Nat) : FaultRec := { code := fcResidency, stage := 3, win := some (s.saveAt c).1 }

/-- A generation that nothing was written in ends without a flip (R242). -/
def State.commitEmpty (s : State) (c : Nat) (i : Cur) : State :=
  if s.recordsHeld c then s.stopFault c (s.saveFault c) else (s.releaseGen c 1).endSpan c i

/-- The flip begins: FLIP is 1 and SEQ is odd (R242 step 1). -/
def State.flipStart (s : State) (c : Nat) : State := s.updGen c (fun g => { g with flip := .begun, seq := g.seq + 1 })

/-- A member votes once every WRITE of the generation is acknowledged (R307 step 4). -/
def State.tryVote (s : State) (c : Nat) : State :=
  match s.waitHead c opCommit with
  | none => s
  | some _ =>
    let g := (s.ctx c).gen
    if g.fab ∧ g.member = .open_ ∧ s.writesDone c then (s.updGen c (fun g => { g with member := .voted })).toCoord c opGenVote g.fgen
    else s

def genAborted : FaultRec := { code := fcGenAborted, stage := 5 }

/-- The fabric generation each window of the write set has now committed (R301). -/
def CtxGen.noteFgen (g : CtxGen) : CtxGen :=
  if g.fab then { g with lastFgen := g.fgen, winFgen := g.writeSet.foldl (fun t w => tabSet 0 t w g.fgen) g.winFgen } else g

/-- The commit decision has come: the member's flip runs (R307 step 6). -/
def State.commitDecided (s : State) (c : Nat) (i : Cur) : State :=
  let s1 := s.updGen c (fun g => { g with member := .committed })
  if (s1.ctx c).gen.writeSet.isEmpty then (s1.updGen c CtxGen.noteFgen).commitEmpty c i
  else (s1.setHead c { i with phase := .flipping }).flipStart c

/-- COMMIT (R178, R242, R307). -/
def State.commitMove (s : State) (c : Nat) (i : Cur) : State :=
  let g := (s.ctx c).gen
  if g.member = .aborted then (s.updGen c (fun g => { g with member := .idle })).stopFault c genAborted
  else if !g.isOpen then s.endSpan c i
  else if g.fab ∧ g.member = .committed then s.commitDecided c i
  else if g.fab then (s.setHead c { i with phase := .waiting }).tryVote c
  else if g.writeSet.isEmpty then s.commitEmpty c i
  else s.setHead c { i with phase := .flipping }

def execCommit (c : Fin 64) (s : State) : Host.Outcome State Fault Refusal :=
  .next (s.withHead c opCommit (fun i => s.commitMove c i))

/-- ABORT (R178, R251, R310). -/
def State.abortMove (s : State) (c : Nat) (i : Cur) : State :=
  if (s.ctx c).gen.isOpen ∧ s.recordsHeld c then s.stopFault c (s.saveFault c)
  else
  let s1 := if (s.ctx c).gen.isOpen then s.releaseOwn c else s.updGen c (fun g => { g with member := .idle })
  s1.endSpan c i

def execAbort (c : Fin 64) (s : State) : Host.Outcome State Fault Refusal :=
  .next (s.withHead c opAbort (fun i => s.abortMove c i))

/-! ## The flip (R242) -/

/-- The COMMIT at HEAD that a flip belongs to. -/
def State.flipHead (s : State) (c : Nat) (f : Flip) : Option Cur := match s.head c with
  | some i => if i.op = opCommit ∧ i.phase = .flipping ∧ (s.ctx c).gen.isOpen ∧ (s.ctx c).gen.flip = f then some i else none
  | none => none

/-- FLIP_BEGIN: an abort sampled before wins (R250). -/
def State.flipBegin (s : State) (c : Nat) : State := match s.flipHead c .none with
  | some _ => if (s.ctx c).gen.abortBit then s else s.flipStart c
  | none => s

def execFlipBegin (c : Fin 64) (s : State) : Host.Outcome State Fault Refusal := .next (s.flipBegin c)

/-- The new GEN of one window is on its way to the table in stack memory, which holds it once the port has accepted it (R242 step 4,
R263, R337). -/
def State.writeTable (s : State) (c w : Nat) : State :=
  let a := s.winAddr c w
  match tabGet none (s.ctx c).gen.newGen w with
  | none => s
  | some g =>
    let m := (s.stack a.1).write (a.2 + 24) (natLe 4 g.toNat)
    s.askWith { write := true, by_ := .tableWrite c w, slice := s.sliceOf c } (fun _ x => m.read x 512)
      (touch ((List.range 4).map (fun k => (a.1, a.2 + 24 + k))))

/-- The cached GEN of one window advances. -/
def State.advanceGen (s : State) (c w : Nat) : State :=
  let e := s.winLook c w
  s.updCtx c (fun x => { x with
    win := { x.win with cache := tabSet none x.win.cache w (some { e with gen := e.gen + 1 }) }
    gen := { x.gen with newGen := tabSet none x.gen.newGen w (some (e.gen + 1)) } })

/-- The save window is resident, and no synchronisation of it is in progress (R258). -/
def State.saveReady (s : State) (c : Nat) : Bool :=
  let x := (s.ctx c).win
  (s.saveWindow c).resident && !(x.busy && (x.all || decide (x.window.toNat = (s.saveAt c).1)))

/-- The table write of a window of the flip has neither been issued nor failed. -/
def State.tableDue (s : State) (c w : Nat) : Bool := !s.outstanding (.tableWrite c w) && !(s.ctx c).gen.tblRetry.contains w

/-- The table update of step 4 begins; without the save window, or while CROSS is in reset, it waits (R258, R323). -/
def State.tableUpdate (s : State) (c : Nat) : State :=
  if (s.ctx c).gen.flip = .point ∧ s.saveReady c ∧ s.crossRuns then
    (s.ctx c).gen.newGen.foldl (fun t e => if s.tableDue c e.1 then t.writeTable c e.1 else t) s
  else s

/-- FLIP_POINT (R242 step 3); the table writes of step 4 leave from here on. -/
def State.flipPoint (s : State) (c : Nat) : State := match s.flipHead c .begun with
  | some _ =>
    let s1 := (s.ctx c).gen.writeSet.foldl (fun s w => s.advanceGen c w) s
    (s1.updGen c (fun g => { g with flip := .point })).tableUpdate c
  | none => s

def execFlipPoint (c : Fin 64) (s : State) : Host.Outcome State Fault Refusal := .next (s.flipPoint c)

/-- Table writes of a flip that are not done. -/
def State.tablePending (s : State) (c : Nat) : Bool := !(s.ctx c).gen.newGen.isEmpty

/-- FLIP_COMPLETE (R242 step 4, R244, R258). -/
def State.flipComplete (s : State) (c : Nat) : State := match s.flipHead c .point with
  | some i =>
    if s.tablePending c || !s.saveReady c || !s.crossRuns then s
    else
      let s1 := s.updGen c CtxGen.noteFgen
      ((s1.releaseGen c 1).updGen c (fun g => { g with seq := g.seq + 1 })).endSpan c i
  | none => s

def execFlipComplete (c : Fin 64) (s : State) : Host.Outcome State Fault Refusal := .next (s.flipComplete c)

/-! ## What the host reads of a published generation (R254) -/

/-- No flip of the context is between its begin and its table update: SEQ is even. -/
def State.seqEven (s : State) (c : Nat) : Bool := decide ((s.ctx c).gen.seq.toNat % 2 = 0)

/-- The bytes of region GEN mod 2 of a window, by the GEN of the window table. From the flip point that published it until the window's next
flip that region holds its whole generation: the writes of an open generation (`WinEntry.region`) and the catch-up copy
(`State.copyStripes`) reach the other region, and a release of an open generation copies that way too; only NONATOMIC writes reach it (R254). -/
def State.hostRead (s : State) (c w off n : Nat) : List Byte :=
  let e := s.winTable c w
  s.winRead e e.current off n

/-! ## Catch-up (R244, R278) -/

/-- The bytes of the recorded stripes, from the current region into the aside region. -/
def State.copyStripes (s : State) (e : WinEntry) (st : List Nat) : State :=
  st.foldl (fun t k =>
    let n := min 4096 (e.limit - k * 4096)
    t.winWrite e (1 - e.current) (k * 4096) (t.winRead e e.current (k * 4096) n)) s

/-- CATCHUP_COPY_DONE. -/
def State.catchupDone (s : State) (c w : Nat) : State :=
  let r := s.winRec c w
  let e := s.winEff c w
  if r.st = .lag ∧ r.paused = false ∧ r.retry = false ∧ e.resident ∧ s.outstanding (.catchup c w) = false
      ∧ s.pinnedAside c w = false ∧ (s.saveWindow c).resident then
    (s.copyStripes e (r.stripes e.limit)).putRec c w WinRec.clean
  else s

def execCatchupCopyDone (c : Fin 64) (w : Fin 1024) (s : State) : Host.Outcome State Fault Refusal := .next (s.catchupDone c w)

/-! ## Window synchronisation (R48, R237, R400) -/

/-- Every access translated through a discarded copy of the entry has completed at its stack port: one issued before the
synchronisation began (R48). One that timed out and is held as late counts no longer (DESIGN CHOICE, log 139). -/
def State.winQuiet (s : State) (c w : Nat) (all : Bool) : Bool :=
  !s.allReqs.any (fun e => decide (e.2.num < (s.ctx c).win.since) && (match e.2.window with
    | some (o, v) => decide (o = c) && (all || decide (v = w))
    | none => false))

/-- A queue halted on a window that is resident again continues (R237); a recorded close takes effect (R210). -/
def Queue.resume (q : Queue) (w : Nat → Bool) : Queue :=
  match q.st, q.haltWin with
  | .halted, some v => if w v then { q with st := if q.closeRec then .closing else .opened, haltWin := none, closeRec := false } else q
  | _, _ => q

/-- An operation on every queue that is not in its reset state. -/
def State.eachQueue (s : State) (f : State → Nat → Nat → Queue → State) : State :=
  s.cells.foldl (fun t e => e.2.queues.foldl (fun t q => f t e.1 q.1 q.2) t) s

/-- CTX_STREAM_FAULT.HALTED follows the recorded queue (R238). -/
def State.streamHalted (s : State) (c : Nat) : State :=
  let f := (s.ctx c).flt.stream.toNat
  let q := s.queue (field f 55 46) (field f 45 42)
  if bitAt f 0 && bitAt f 1 && decide (q.st ≠ .halted) then
    s.updCtx c (fun x => { x with flt := { x.flt with stream := BitVec.ofNat 64 (f - 2) } })
  else s

/-- What follows once a synchronisation of the windows that `named` selects reports idle. -/
def State.syncEffects (s : State) (c : Nat) (named : Nat → Bool) : State :=
  let ok := fun (w : Nat) => named w && (s.winEff c w).resident
  let s1 := s.updCtx c (fun x => { x with cur := x.cur.map (fun i => if i.windows.any named then { i with recheck := true } else i) })
  let s2 := s1.eachQueue (fun s g q x => if x.owner = c then s.setQueue g q (x.resume ok) else s)
  let s3 := (s.ctx c).recs.foldl (fun s r => if r.2.paused ∧ ok r.1 then s.startCatchup c r.1 else s) s2
  let s4 := (s3.streamHalted c).tableUpdate c
  if (s4.ctx c).run.st = .stopped ∧ named (s.saveAt c).1 then s4.settleAbort c else s4

/-- WIN_SYNC_IDLE. -/
def State.winSyncIdle (s : State) (c : Nat) : State :=
  let x := (s.ctx c).win
  if x.busy ∧ s.winQuiet c x.window.toNat x.all then
    let s1 := s.updCtx c (fun y => { y with win := { y.win with busy := false, all := false } })
    s1.syncEffects c (fun w => x.all || decide (w = x.window.toNat))
  else s

def execWinSyncIdle (c : Fin 64) (s : State) : Host.Outcome State Fault Refusal := .next (s.winSyncIdle c)

/-! ## Save area (R82, R93, R258) -/

def TileRec.word (t : TileRec) : Nat :=
  match t.st with
  | .empty => 0
  | .valid => 0x1000 + t.wm1 * 64 + t.rowsm1
  | .partly => t.cursor * 0x10000 + 0x2000 + t.wm1 * 64 + t.rowsm1

def TileRec.ofWord (w : Nat) : TileRec :=
  match field w 13 12 with
  | 1 => ⟨.valid, 0, field w 8 6, field w 5 0⟩
  | 2 => ⟨.partly, field w 25 16, field w 8 6, field w 5 0⟩
  | _ => TileRec.empty

def TileRec.bytes (t : TileRec) : Nat := if t.st = .empty then 0 else (t.rowsm1 + 1) * (32 * (t.wm1 + 1))

/-- Where the record of a cell lies in the save area. -/
def cellRecAt (g : Nat) : Nat := 0x21000 + g * 0x81000

/-- The entry of the save window is read where the unit does not hold it (R42). -/
def State.saveEntry (s : State) (c : Nat) (by_ : Requester) : State := s.missEntries c [(s.saveAt c).1] by_

/-- Bytes written in place into the save area through the stack ports, for one requester. -/
def State.saveStore (s : State) (c : Nat) (by_ : Requester) (off : Nat) (bs : List Byte) : State :=
  let (w, o) := s.saveAt c
  let e := s.winEff c w
  let g := touch ((List.range bs.length).map (fun k => e.xlate e.current (o + off + k)))
  ((s.saveWrite c off bs).issueAll true by_ (some (c, w)) g).addBytes c (granBytes g)

/-- The record of one cell: 32 tile state words, and the data of every tile that is not EMPTY (R93). -/
def State.spillCell (s : State) (c : Nat) (by_ : Requester) (g : Nat) : State :=
  let x := s.cell g
  let s1 := s.saveStore c by_ (cellRecAt g) ((List.range 32).flatMap (fun t => natLe 8 (x.tile t).word))
  (List.range 32).foldl (fun s t =>
    let n := (x.tile t).bytes
    if n = 0 then s else s.saveStore c by_ (cellRecAt g + 0x1000 + t * 0x4000) (x.tileBytes s.build t 0 n)) s1

/-- The blocks whose layout is the unit's own become undefined bytes, and the write set is written (R258). -/
def State.spillHeader (s : State) (c : Nat) (by_ : Requester) : State :=
  let (w, o) := s.saveAt c
  let e := s.winEff c w
  let s1 := s.winScramble e e.current o (o + 0x600)
  let set := (s.ctx c).gen.writeSet
  let bytes := (List.range 128).map (fun b => BitVec.ofNat 8 (sumNat ((List.range 8).map (fun k => boolNat (set.contains (8 * b + k)) k))))
  s1.saveStore c by_ 0x600 bytes

/-- CTXSAVE (R207, R259). It retires once its writes are accepted. -/
def State.ctxsaveMove (s : State) (c : Nat) (i : Cur) : State :=
  if (s.saveWindow c).resident then
    ((s.ownedCells c).foldl (fun s g => s.spillCell c (.save c) g) ((s.saveEntry c (.save c)).spillHeader c (.save c))).setHead c { i with phase := .moved }
  else s.stopFault c (s.saveFault c)

def execCtxsave (c : Fin 64) (s : State) : Host.Outcome State Fault Refusal :=
  .next (s.withHead c opCtxsave (fun i => s.ctxsaveMove c i))

/-! ## Context switches (R257, R259) -/

/-- QUANTUM_EXPIRE. -/
def State.quantumExpire (s : State) (c : Nat) : State :=
  if s.quantum c = 0 ∨ (s.ownedCells c).isEmpty then s
  else s.updRun c (fun r => { r with quantumOver := true })

def execQuantumExpire (c : Fin 64) (s : State) : Host.Outcome State Fault Refusal := .next (s.quantumExpire c)

/-- CTX_SCHED allows the switch for a waiting context; with no context waiting, the firmware's request alone. -/
def State.switchAllowed (s : State) (c g : Nat) : Bool :=
  let ws := s.waitersFor g
  ws.isEmpty || ws.any (s.outranks c)

/-- The context stands at an instruction boundary or at a halt point. -/
def State.atBoundary (s : State) (c : Nat) : Bool := match s.head c with
  | some i => decide (i.phase = .ready ∨ i.phase = .waiting)
  | none => true

/-- CONTEXT_SWITCH_OUT. -/
def State.switchOut (s : State) (c g : Nat) : State :=
  if (s.cell g).owner = some c ∧ s.atBoundary c ∧ s.switchAllowed c g ∧ (s.saveWindow c).resident then
    let halted := match s.head c with
      | some i => i.halted
      | none => false
    let s1 := (s.saveEntry c (.switchOut c)).spillCell c (.switchOut c) g
    let s2 := if halted then s1.spillHeader c (.switchOut c) else s1
    let s3 := ((s2.updCell g (fun x => { x.emptyAll s.build s2.free with owner := none })).bump 32).updCtx c (fun x =>
      { x with spilled := if x.spilled.contains g then x.spilled else x.spilled ++ [g] })
    if (s3.ownedCells c).isEmpty then s3.updRun c (fun r => { r with quantumOver := false }) else s3
  else s

def execContextSwitchOut (c : Fin 64) (g : Fin 768) (s : State) : Host.Outcome State Fault Refusal := .next (s.switchOut c g)

/-- The cells are powered: not in PARK, on the way into it or out of it (R335). -/
def State.notParked (s : State) : Bool := decide (s.clk.pwState = 0 ∨ s.clk.pwState = 1)

/-- What a switched-out context had to wait with takes effect when it runs again (R239). -/
def State.wakeBoundary (s : State) (c : Nat) : State :=
  if (s.ctx c).run.pendFault.isSome ∧ s.atBoundary c then (s.leaveHead c).boundary c else s

/-- CONTEXT_RESTORE: the record comes back and the cell is the context's again. -/
def State.restoreCell (s : State) (c g : Nat) : State :=
  if (s.cell g).owner = none ∧ (s.ctx c).spilled.contains g ∧ (s.saveWindow c).resident ∧ g < s.nCells ∧ s.cellDown g = false
      ∧ s.notParked ∧ (s.slice (g / 64)).testsHome (g % 64) = false ∧ s.swapsCell g = false then
    let at_ := cellRecAt g
    let (w, o) := s.saveAt c
    let e := s.winEff c w
    let recs := (List.range 32).map (fun t => TileRec.ofWord (leNat (s.saveRead c (at_ + 8 * t) 8)))
    let x := recs.zipIdx.foldl (fun (x : Cell) r =>
      let y := x.setTile r.2 r.1
      if r.1.bytes = 0 then y else y.tileWrite s.build r.2 (s.saveRead c (at_ + 0x1000 + r.2 * 0x4000) r.1.bytes)) ((s.cell g).emptyAll s.build s.free)
    let span := fun (off n : Nat) => (List.range (ceilDiv n 64)).map (fun k => e.xlate e.current (o + off + 64 * k))
    let t := touchWhole (span at_ 256 ++ recs.zipIdx.flatMap (fun r => span (at_ + 0x1000 + r.2 * 0x4000) r.1.bytes))
    let s1 := (s.setCell g { x with owner := some c }).updCtx c (fun y => { y with spilled := y.spilled.filter (fun k => decide (k ≠ g)) })
    ((((s1.saveEntry c (.switchOut c)).issueAll false (.switchOut c) (some (c, w)) t).addBytes c (granBytes t)).bump 32).wakeBoundary c
  else s

def execContextRestore (c : Fin 64) (g : Fin 768) (s : State) : Host.Outcome State Fault Refusal := .next (s.restoreCell c g)

/-! ## The wait bound -/

def timeoutAt (stage : Nat) : FaultRec := { code := fcTimeout, stage := stage }

/-- WAIT_BOUND_EXPIRE: a semaphore or queue-space wait (R197, R216), or a wait at cell setup for a catch-up or a pin (R245,
R252). The waiter is tested before the bound. -/
def State.waitExpire (s : State) (c : Nat) : State :=
  match s.head c with
  | none => s
  | some i =>
    if !s.active c then s
    else if i.phase = .waiting ∧ i.is opSwait then
      match s.waitsOn c i with
      | some (o, p) => if s.waiterReady c o p i then s.swaitWake c else s.stopFault c (timeoutAt 5)
      | none => s
    else if i.phase = .waiting ∧ i.is opSblock then (if s.queueRoom i then s else s.stopFault c (timeoutAt 5))
    else if i.phase = .ready ∧ i.fault = none ∧ i.anyEmpty = false ∧ ((s.dropDense c i).lagWait c i ∨ s.pinWait c i) then
      s.stopFault c (timeoutAt 3)
    else s

def execWaitBoundExpire (c : Fin 64) (s : State) : Host.Outcome State Fault Refusal := .next (s.waitExpire c)

end Sys2Proof.Machine
end

