-- ==== Sys2Proof/Machine/Streams.lean ====
section
/-!
DEFINITION. Stream queues, the array edge link, steering, the deadline arbiter and the Carousel (R208 to R240), and the fencing
of a cell (R366, R367), which closes its queues.
-/
namespace Sys2Proof.Machine

/-! ## Closing, faults, halts -/

/-- Tokens of 128 B in a queue's ring (R212). -/
def Queue.ring (q : Queue) : Nat := 32 * q.sd.rsize

/-- Credits that the unit grants on a DIR = 1 channel (R222, R223): the ring, or the staging space of appended blocks. -/
def Queue.grantable (q : Queue) (stale : Nat) : Nat :=
  if 0 < q.ring then q.ring - q.staged.length - stale
  else sumNat (q.blocks.map (fun b => if b.desc.space = 1 then b.tokens - b.fetched else 0)) - stale

/-- A grant of n credits leaves in items of at most 16 (R222, R407). -/
def croItems (q n : Nat) : List (BitVec 4 × BitVec 4) :=
  (List.range (ceilDiv n 16)).map (fun k => (BitVec.ofNat 4 q, BitVec.ofNat 4 (min 16 (n - 16 * k) - 1)))

/-- Free space becomes credits; in a HALTED queue ring space that is free already, and no other (R236). -/
def State.grantCredits (s : State) (g q : Nat) : State :=
  s.updCell g (fun y =>
    let x := y.queue q
    let k := y.chan q
    let n := x.grantable k.stale
    if !s.tap.pinsHeld ∧ x.dir ∧ (x.st = .opened ∨ x.st = .closing ∨ (x.st = .halted ∧ 0 < x.ring)) ∧ k.granted < n then
      { y.setChan q { k with granted := n } with lastCro := croItems q (n - k.granted) }
    else y)

/-- Another slice of the block's Carousel has not rotated to this delivery yet (R230; DEDUCED, log 107). -/
def State.awaitsSlice (s : State) (c q id : Nat) : Bool :=
  s.openQueues.any (fun e => decide (e.2.1 = q ∧ e.2.2.owner = c) && (match e.2.2.carousel with
    | some k => decide (k.id % 2 ^ 32 = id % 2 ^ 32 ∧ k.id < id)
    | none => false))

/-- BLOCK_COMPLETE: recorded once, when the parts in all cells are complete. -/
def State.blockComplete (s : State) (c q id : Nat) : State :=
  let cs := s.blockCells c q id
  if s.awaitsSlice c q id then s
  else match cs with
  | [] => s
  | (g0, _) :: _ =>
    let x := s.queue g0 q
    let whole := match x.blocks.head? with
      | some b => decide (cs.length = b.cells)
      | none => false
    let drop := fun (t : State) => cs.foldl (fun t e =>
      (t.updQueue e.1 q (fun y => { y with blocks := y.blocks.drop 1, blockNo := y.blockNo + 1 })).grantCredits e.1 q) t
    if cs.all (·.2) then
      if whole then (match s.signalBlock c x with
        | some s1 => drop s1
        | none => s)
      else drop s
    else s

/-- Blocks of a queue that are complete are recorded, in append order, before the queue closes (R217, R220). -/
def State.settleQueue (s : State) (g q : Nat) : State :=
  let x := s.queue g q
  x.blocks.foldl (fun t b => t.blockComplete x.owner q b.id) s

/-- The queue is CLOSED and releases its staging; credits granted and not used stay outstanding (R220, R223). FILL is set
when the last queue of the current layer closes (R229). -/
def State.closeQueue (s : State) (g q : Nat) : State :=
  let x := s.queue g q
  let s1 := s.updCell g (fun y =>
    let k := y.chan q
    (y.setQueue q Queue.closed).setChan q { k with granted := 0, stale := k.stale + k.granted, ctl := [], dataWait := 0 })
  let others := s1.openQueues
  let s2 := if x.st ≠ .closed ∧ x.sd.layer = s.beat.layer ∧ !others.isEmpty
      ∧ others.all (fun e => decide (e.2.2.sd.layer ≠ s.beat.layer)) then { s1 with beat := { s1.beat with fill := true } } else s1
  if x.st = .halted then s2.streamHalted x.owner else s2

/-- CTX_STREAM_FAULT takes the first delivery event (R238). -/
def State.recordStream (s : State) (c code g q block token : Nat) (halted : Bool) : State :=
  if bitAt (s.ctx c).flt.stream.toNat 0 then s
  else
    let w := BitVec.ofNat 64 (code * 2 ^ 56 + g * 2 ^ 46 + q * 2 ^ 42 + block % 64 * 2 ^ 36 + token % 2 ^ 20 * 2 ^ 16 + boolNat halted 1 + 1)
    (s.updCtx c (fun x => { x with flt := { x.flt with stream := w } })).pendCtx c 1

/-- The block a queue works on, and its token offset there: fetched or delivered. -/
def Queue.position (q : Queue) (fetch : Bool) : Nat × Nat :=
  let n := fun (b : Block) => if fetch && !q.dir then b.fetched else b.done
  match q.blocks.zipIdx.find? (fun e => decide (n e.1 < e.1.tokens)) with
  | some e => (q.blockNo + e.2, n e.1)
  | none => (q.blockNo + q.blocks.length, 0)

/-- Whether a context stands where a delivery fault stops it at once; one that is switched out stops when it next runs (R239). -/
def State.stopsNow (s : State) (c : Nat) : Bool :=
  if s.switchedOut c then false
  else match (s.ctx c).run.st with
  | .stopped => false
  | .running => (match s.head c with
    | none => true
    | some i => decide (i.phase = .ready) || (decide (i.phase = .waiting) && (i.is opSblock || i.is opCarousel)))
  | _ => true

/-- A fault not tied to the instruction stops the context at its next instruction boundary (R239, R402). -/
def State.boundaryFault (s : State) (c : Nat) (f : FaultRec) : State :=
  if (s.ctx c).run.st = .stopped then s
  else if s.stopsNow c then (s.leaveHead c).stopFault c f
  else s.updRun c (fun r => { r with pendFault := some (r.pendFault.getD f) })

/-- TIMEOUT, PAIRING or EPOCH_STALE in a queue (R239); for a stack request, with its port and whether ERR was the cause (R264). BLOCK and TOKEN
name the fetch position for TIMEOUT and the delivery position for the others, which R238 leaves open (DESIGN CHOICE, log 121). -/
def State.faultQueueAt (s : State) (g q code : Nat) (port : Option Nat) (err : Bool) : State :=
  let x := s.queue g q
  if x.st = .closed ∨ x.st = .faulted then s
  else
    let p := x.position (decide (code = fcTimeout))
    let s1 := (s.setQueue g q { x with st := .faulted }).recordStream x.owner code g q p.1 p.2 false
    (s1.streamHalted x.owner).boundaryFault x.owner { code := code, stage := 6, cell := some g, port := port, err := err }

def State.faultQueue (s : State) (g q code : Nat) : State := s.faultQueueAt g q code none false

/-- RESIDENCY at a queue's stack access (R236). -/
def State.haltQueue (s : State) (g q w : Nat) : State :=
  let x := s.queue g q
  let p := x.position true
  (s.setQueue g q { x with st := .halted, haltWin := some w, closeRec := decide (x.st = .closing) }).recordStream
    x.owner fcResidency g q p.1 p.2 true

/-! ## Fences (R366, R367) -/

/-- The code that contexts stopped by a fence read. -/
def fenceCode (cause : Nat) : Nat := if cause = 5 then fcSwitchHang else if cause = 6 then fcCfgUpset else fcTimeout

/-- The tile states of a cell whose record lies in the save area become EMPTY where they are PARTIAL with a row loaded; a save window that
is not resident keeps its bytes (R93, R98; DEDUCED, log 134). -/
def State.emptySaved (s : State) (c g : Nat) (ts : List Nat) : State :=
  if (s.saveWindow c).resident then
    ts.foldl (fun t n =>
      let r := TileRec.ofWord (leNat (t.saveRead c (cellRecAt g + 8 * n) 8))
      if r.st = .partly ∧ 0 < r.cursor then t.saveStore c (.switchOut c) (cellRecAt g + 8 * n) (List.replicate 8 0) else t) s
  else s

/-- A TLOAD that stops otherwise than by a halt leaves its tiles EMPTY in every engaged cell where data movement had begun, wherever the
cell's tiles are, and the others as they were (R98). -/
def State.dropLoad (s : State) (c : Nat) : State := match s.head c with
  | some i =>
    let t := i.fieldTile
    if i.is opTload ∧ (i.phase = .moved ∨ i.halted) then
      (i.cells.foldl (fun s g =>
        if (s.cell g).owner = some c then (if i.phase = .moved ∨ 0 < s.loadCursor i i.halted g then s.emptyTiles g t else s)
        else if (s.ctx c).spilled.contains g then s.emptySaved c g (t.tile :: (if fmtMx t.fmt then [t.stile] else []))
        else s) s).bump 1
    else s
  | none => s

/-- An instruction that had begun stops with no result: the tiles of a TLOAD, the buffer and scratch (R98, R126, R127). -/
def State.dropWork (s : State) (c : Nat) : State := (s.leaveHead c).dropLoad c

/-- A context stops for a cause outside its instruction; a flip that has begun completes first (R367). One that is STOPPED with RESUMABLE 1
stops anew, for this cause (DEDUCED, log 129). -/
def State.outsideStop (s : State) (c : Nat) (f : FaultRec) : State :=
  if (s.ctx c).run.st = .stopped ∧ (s.ctx c).run.resumable = false then s
  else if (s.ctx c).gen.flip ≠ .none then s.updRun c (fun r => { r with pendFault := some (r.pendFault.getD f) })
  else (s.dropWork c).stopFault c f

/-- Contexts that own a cell or whose instruction at HEAD engages it; not one that is switched out of it (R367, R369). -/
def State.usersOf (s : State) (g : Nat) : List Nat :=
  (List.range 64).filter (fun c => decide ((s.cell g).owner = some c) || (match s.head c with
    | some i => i.cells.contains g && !s.switchedOut c && !(s.ctx c).spilled.contains g
    | none => false))

/-- The physical cell that serves a position is out of service (R368, R369, R372). -/
def Slice.fence (x : Slice) (pos : Nat) : Slice := match x.spareOf pos with
  | some k => { x with spares := x.spares.set k ⟨2, 0⟩, lost := x.lost ||| BitVec.ofNat 64 (2 ^ pos) }
  | none => { x with fenced := x.fenced ||| BitVec.ofNat 64 (2 ^ pos) }

/-- The cell loses its owner, its tiles and its queues. -/
def State.emptyCell (s : State) (g : Nat) : State :=
  let s1 := (s.cell g).queues.foldl (fun s q => (s.settleQueue g q.1).closeQueue g q.1) s
  (s1.updCell g (fun x => { x.dropAll with
    owner := none, tiles := [], mem := ⟨[], [⟨0, 0x100000, s1.free⟩]⟩, opFile := ⟨[], [⟨0, 0x8000, s1.free⟩]⟩ })).bump 1

/-- A fence of cause 1 to 6 (R367). -/
def State.fenceCell (s : State) (g cause : Nat) : State :=
  if s.cellDown g ∨ s.nCells ≤ g then s
  else
    let code := fenceCode cause
    let users := s.usersOf g
    let s1 := s.globalFault code 2 (s.physCell g) cause
    let s2 := users.foldl (fun s c => s.outsideStop c { code := code, stage := 6, cell := some g }) s1
    (s2.emptyCell g).updSlice (g / 64) (fun x => x.fence (g % 64))

/-- ECC_UNCORRECTABLE (R366, R367). -/
def execEccUncorrectable (g : Fin 768) (cause : Fin 3) (s : State) : Host.Outcome State Fault Refusal :=
  .next (s.fenceCell g (cause.val + 1))

/-- READY_PARITY_ERROR (R407). -/
def execReadyParityError (g : Fin 768) (s : State) : Host.Outcome State Fault Refusal := .next (s.onPins (·.fenceCell g 4))

/-! ## SOPEN, SBLOCK, SCLOSE -/

def State.sopenCell (s : State) (c : Nat) (i : Cur) (d : SDesc) (g : Nat) : State :=
  let q := i.queueNo
  let x := s.queue g q
  let held := ((s.cell g).chan q).held
  (s.setQueue g q
    { Queue.closed with
      st := .opened, owner := c, dir := i.b 41, sem := i.f 40 31, limit := i.f 47 42 + 1, sd := d, nextTag := d.tag0
      credits := if i.b 41 then 0 else d.depth - held, reads := x.reads }).grantCredits g q

/-- SOPEN (R210, R222, R223). -/
def State.sopenMove (s : State) (c : Nat) (i : Cur) : State :=
  match i.stream with
  | some d => (i.cells.foldl (fun s g => s.sopenCell c i d g) s).retireHead c i
  | none => s.retireHead c i

def execSopen (c : Fin 64) (s : State) : Host.Outcome State Fault Refusal :=
  .next (s.withSetup c opSopen (fun t i => t.sopenMove c i))

/-- The block an SBLOCK appends in the cell of rank j. -/
def State.blockFor (s : State) (c : Nat) (i : Cur) (d : TDesc) (j : Nat) : Block :=
  { id := i.n.toNat, n := i.n, seed := (s.ctx c).cfg.srSeed, desc := d, sdesc := i.descOfRole (.scaleOf 0), rank := j, cells := i.cells.length, round := i.round, sat := i.sat
    amacc := i.amacc, afmt := BitVec.ofNat 8 (if i.is opSblock then i.f 43 36 else 0)
    tokens := partTokens d i.cells.length i.linkFmt, fetched := 0, done := 0, fromCarousel := false, got := [], brought := [], kept := [] }

def State.appendBlock (s : State) (g q : Nat) (b : Block) : State :=
  (s.updQueue g q (fun x => { x with blocks := x.blocks ++ [b] })).grantCredits g q

def State.sblockAppend (s : State) (c : Nat) (i : Cur) : State :=
  match i.descAt 0 with
  | some d => (i.cells.zipIdx.foldl (fun s e => s.appendBlock e.1 i.queueNo (s.blockFor c i d e.2)) s).retireHead c i
  | none => s.retireHead c i

/-- An instruction that appends to its queue waits until there is room (R216, R230). A synchronisation that ended meanwhile has its checks
repeated (R160). -/
def State.whenRoom (s : State) (c op : Nat) (append : State → Cur → State) : State :=
  match s.waitHead c op with
  | some i =>
    if s.queueRoom i then (match if i.recheck then s.checkLate c i else none with
      | some f => s.stopFault c f
      | none => append s i)
    else s
  | none => s.withSetup c op (fun t i => if t.queueRoom i then append t i else t.enterWait c i .running)

/-- SBLOCK (R214 to R216). -/
def execSblock (c : Fin 64) (s : State) : Host.Outcome State Fault Refusal :=
  .next (s.whenRoom c opSblock (fun t i => t.sblockAppend c i))

/-- R210 and R220, in one cell. -/
def State.scloseCell (s : State) (q : Nat) (cancel : Bool) (g : Nat) : State :=
  let x := s.queue g q
  if x.st = .closed then s
  else if cancel ∨ x.st = .faulted then s.closeQueue g q
  else if x.st = .halted then s.setQueue g q { x with closeRec := true }
  else s.setQueue g q { x with st := .closing }

/-- Blocks that are complete are recorded where the queue closes at once. -/
def State.scloseSettle (s : State) (i : Cur) : State :=
  i.cells.foldl (fun t g => if i.b 91 ∨ (s.queue g i.queueNo).st = .faulted then t.settleQueue g i.queueNo else t) s

def execSclose (c : Fin 64) (s : State) : Host.Outcome State Fault Refusal :=
  .next (s.withSetup c opSclose (fun t i =>
    ((i.cells.foldl (fun s g => s.scloseCell i.queueNo (i.b 91) g) (t.scloseSettle i)).retireHead c i)))

/-- QUEUE_CLOSED (R220). -/
def State.queueClosed (s : State) (g q : Nat) : State :=
  let x := s.queue g q
  if x.st = .closing ∧ x.blocks.isEmpty ∧ x.carousel.isNone then s.closeQueue g q else s

def execQueueClosed (g : Fin 768) (q : BitVec 4) (s : State) : Host.Outcome State Fault Refusal := .next (s.queueClosed g q.toNat)

/-! ## A part of a block as tokens (R215) -/

/-- The index of element j of a part, dimension 0 fastest. -/
def unrank : List Nat → Nat → List Nat
  | [], _ => []
  | n :: t, j => j % max 1 n :: unrank t (j / max 1 n)

def Block.index (b : Block) (j : Nat) : List Nat :=
  unrank (partExts b.desc b.parts) j ++ (if 1 < b.parts then [if b.desc.e (b.desc.rank - 1) = 1 then 0 else b.rank] else [])

def Block.count (b : Block) : Nat := prodNat (partExts b.desc b.parts)

/-- The block's tensor as a cell's queue sees it, in the current generation of the owner's window (R214, R219). -/
def State.blockView (s : State) (g c : Nat) (b : Block) : View :=
  let sk := if b.desc.space = 1 ∧ 1 < b.parts then some (b.desc.rank - 1) else none
  let at_ := fun (d : TDesc) =>
    let e := s.winEff c d.window
    descLoc d (if d.space = 1 then sk else none) (fun _ => if d.space = 0 then .stack (c, d.window) e e.current else .cell g)
  { fmt := b.desc.f, ext := b.desc.exts, axis := b.desc.mxaxis, at_ := at_ b.desc
    scaleAt := match b.sdesc with
      | some d => at_ d
      | none => fun _ => Loc.nowhere
    again := fun _ => 0, scaleAgain := fun _ => 0 }

/-- The index whose reading serves an index too (R35); the cell dimension counts as it is. -/
def Block.once (b : Block) (d : TDesc) (x : List Nat) : List Nat :=
  if 1 < b.parts then (d.once x).set (d.rank - 1) (x.getD (d.rank - 1) 0) else d.once x

/-- A dimension of a block broadcasts, and is read once (R35); with SPACE = 1 the cell dimension is none (R214). -/
def Block.broadcasts (b : Block) (d : TDesc) : Bool :=
  d.dims.any (fun k => decide (d.s k = 0) && decide (1 < d.e k) && !(fmtSubByte d.f && decide (k = 0)) && !d.rereads.contains k
    && !(decide (1 < b.parts ∧ d.space = 1) && decide (k = d.rank - 1)))

/-- The cell dimension broadcasts: what one cell of the unit reads serves every cell (R35). -/
def Block.spread (b : Block) (d : TDesc) : Bool :=
  decide (1 < b.parts ∧ d.space = 0 ∧ d.s (d.rank - 1) = 0 ∧ 1 < d.e (d.rank - 1)) && !d.rereads.contains (d.rank - 1)

/-- Another cell has read an element or a scale for this one. -/
def Block.has (b : Block) (d : TDesc) (scale : Bool) (x : List Nat) : Bool :=
  b.spread d && b.kept.any (fun e => decide (e.1 = scale) && decide (d.once e.2.1 = d.once x))

/-- The state in which broadcast data that the queue keeps stands where it was read (R35). -/
def State.holding (s : State) (g c : Nat) (b : Block) : State :=
  let v := s.blockView g c b
  s.writeLocs (b.kept.map (fun e => (if e.1 then v.scaleAt e.2.1 else v.at_ e.2.1, e.2.2)))

/-- The format on the link. -/
def Block.link (b : Block) : Nat := if b.afmt = 0 then fmtElem b.desc.f else b.afmt.toNat

/-- Elements go as stored: AFMT = 0, or AFMT equal to a format that is not MX. -/
def Block.raw (b : Block) : Bool := decide (b.afmt = 0) || (decide (b.afmt.toNat = b.desc.f) && !fmtMx b.desc.f)

/-- How element j of a part is rounded in cell g: the same in both tokens of an element that straddles two (R71, R72). -/
def Block.rnd (b : Block) (g j : Nat) : Rnd := RoundBy.at_ ⟨b.round, b.sat, fun _ => ⟨b.seed, b.n, 0⟩⟩ g j

/-- What one token carries: its 128 B as a number, sticky bits, the source values. -/
structure TokenData where
  bits : Nat
  flags : BitVec 5
  values : List Num

/-- Elements that token k of a part touches; with scale tokens between, the elements of its row. -/
def Block.elems (b : Block) (k : Nat) : List Nat :=
  let w := fmtBits b.link
  let row := if fmtMx b.link then k / 2 else k
  let lo := 1024 * row / w
  let hi := ceilDiv (1024 * row + 1024) w
  List.range' lo (min hi b.count - lo)

/-- The indices of token k's elements that no earlier token, and no other cell, has read (R35), and after it those of their scales. -/
def Block.newElems (b : Block) (k : Nat) : List (List Nat) :=
  ((b.elems k).map b.index).filter (fun x => decide (b.once b.desc x = x) && !b.has b.desc false x)
/-- The scales of token k's elements. -/
def Block.scalesOf (b : Block) (k : Nat) : List (List Nat) :=
  ((b.elems k).map (fun j => (b.index j).set b.desc.mxaxis ((b.index j).getD b.desc.mxaxis 0 / 32))).eraseDups

def Block.newScales (b : Block) (k : Nat) : List (List Nat) := match b.sdesc with
  | some d =>
    if b.raw || (fmtMx b.link && decide (k % 2 = 1)) then []
    else (b.scalesOf k).filter (fun x => decide (b.once d x = x) && !b.has d true x)
  | none => []

/-- What another cell was to read for token k does not come. -/
def Block.forget (b : Block) (k : Nat) : Block :=
  { b with
    brought := tabSet [] b.brought k []
    kept := b.kept.filter (fun e =>
      let d := if e.1 then b.sdesc.getD b.desc else b.desc
      !(b.spread d && (if e.1 then b.scalesOf k else (b.elems k).map b.index).any (fun x => decide (d.once e.2.1 = d.once x)))) }

/-- The reads of token k; a token of scales reads nothing again. -/
def State.tokenReads (s : State) (g c : Nat) (b : Block) (k : Nat) : List Access :=
  let v := s.blockView g c b
  let sc := fun (x : List Nat) => match b.sdesc with
    | some d => d.again x
    | none => 0
  (if fmtMx b.link && decide (k % 2 = 1) then [] else (b.newElems k).map (fun x => { cell := g, part := (0, b.desc.again x), loc := v.at_ x }))
    ++ (b.newScales k).map (fun x => { cell := g, part := (0, sc x), loc := v.scaleAt x })

/-- What token k adds to the broadcast data kept. -/
def State.keepToken (s : State) (g c : Nat) (b : Block) (k : Nat) : List (Bool × List Nat × Nat) :=
  let v := s.blockView g c b
  (if b.broadcasts b.desc then (b.newElems k).map (fun x => (false, x, s.readLoc (v.at_ x))) else [])
    ++ (match b.sdesc with
      | some d => if b.broadcasts d then (b.newScales k).map (fun x => (true, x, s.readLoc (v.scaleAt x))) else []
      | none => [])

/-- Elements packed from element j0 on, as one number. -/
def packBits (w j0 : Nat) (l : List (Nat × Nat)) : Nat := sumNat (l.map (fun e => e.2 % 2 ^ w * 2 ^ (w * (e.1 - j0))))

/-- Token k of a part towards the array. An MX block that goes as it is stored counts its scales in amax (DESIGN CHOICE, log 140). -/
def State.tokenOut (s : State) (g c : Nat) (b : Block) (k : Nat) : TokenData :=
  let v := s.blockView g c b
  let js := b.elems k
  let w := fmtBits b.link
  let idx := js.map b.index
  let vals := idx.map (s.readVal v)
  if fmtMx b.link then
    let blocks := (List.range (js.length / 32)).map (fun m =>
      let part := (js.drop (32 * m)).take 32
      let from_ := part.map b.index
      let one := from_.all (fun x => decide (v.blockIdx x = v.blockIdx (from_.headD [])))
      if v.mx ∧ v.fmt = b.link ∧ one then
        (s.readLoc (v.scaleAt (v.blockIdx (from_.headD []))), from_.map (fun x => s.readLoc (v.at_ x)), (0 : BitVec 5))
      else encodeBlock (fmtElem b.link) (fun e => b.rnd g (part.getD e 0)) (from_.map (s.readVal v)))
    let flags := blocks.foldl (fun f e => f ||| e.2.2) 0
    if k % 2 = 0 then ⟨packBits w 0 ((blocks.flatMap (·.2.1)).zipIdx.map (fun e => (e.2, e.1))), flags, vals⟩
    else ⟨packBits 8 0 (blocks.zipIdx.map (fun e => (e.2, e.1.1))), 0, []⟩
  else
    let j0 := js.headD 0
    let enc := js.map (fun j =>
      let x := b.index j
      if b.raw then (s.readLoc (v.at_ x), (0 : BitVec 5)) else encodeElem b.link (b.rnd g j) b.sat (s.readVal v x))
    let n := packBits w j0 (js.zip (enc.map (·.1)))
    ⟨n / 2 ^ (1024 * k - w * j0) % 2 ^ 1024, enc.foldl (fun f e => f ||| e.2) 0, vals⟩

/-- A DIR = 1 block whose destination needs whole blocks, or whose tokens carry scales, is written once all is there. -/
def Block.whole (b : Block) : Bool := !b.raw && (fmtMx b.link || fmtMx b.desc.f)

/-- A DIR = 1 block of an MX format whose blocks run along the cell dimension: each of them has its elements in 32 cells (R62, R214). -/
def Block.across (b : Block) : Bool :=
  !b.raw && fmtMx b.desc.f && decide (1 < b.parts) && decide (b.desc.mxaxis = b.desc.rank - 1) && decide (1 < b.desc.e (b.desc.rank - 1))

/-- The bits of an element replaced by those that a token carries. -/
def patchBits (old w lo hi v : Nat) : Nat :=
  old % 2 ^ w - field (old % 2 ^ w) (hi - 1) lo * 2 ^ lo + v % 2 ^ (hi - lo) * 2 ^ lo

/-- The tokens that hold the bits of element j of a part; a token of scales follows each token of MX elements (R215). -/
def Block.tokensOf (b : Block) (j : Nat) : List Nat :=
  let w := fmtBits b.link
  let lo := w * j / 1024
  if fmtMx b.link then [2 * lo, 2 * lo + 1] else List.range' lo ((w * j + w - 1) / 1024 + 1 - lo)

/-- Element j of a part has come: none of its tokens was discarded (R348). -/
def Block.came (b : Block) (tok : Nat → List Byte) (j : Nat) : Bool := (b.tokensOf j).all (fun k => !(tok k).isEmpty)

/-- The bits of element j, packed without gaps from token to token (R31, R60, R215). -/
def Block.elemBits (b : Block) (tok : Nat → List Byte) (j : Nat) : Nat :=
  let w := fmtBits b.link
  let k := (b.tokensOf j).headD 0
  (leNat (tok k) + 2 ^ 1024 * leNat (tok (k + 1))) / 2 ^ (w * j % 1024) % 2 ^ w

/-- The scale byte that element j has on an MX link. -/
def Block.elemScale (b : Block) (tok : Nat → List Byte) (j : Nat) : Nat :=
  leNat (tok ((b.tokensOf j).getD 1 0)) / 2 ^ (8 * (fmtBits b.link * j % 1024 / (32 * fmtBits b.link))) % 256

/-- The value of element j on the link. -/
def Block.elemVal (b : Block) (tok : Nat → List Byte) (j : Nat) : Num :=
  let x := decodeElem (fmtElem b.link) (b.elemBits tok j)
  if fmtMx b.link then scaleNum (b.elemScale tok j) x else x

/-- What cell g writes for tokens that have come. -/
def Moved.landing (g : Nat) (writes : List (Loc × Nat)) (flags : BitVec 5) (values : List Num) : Moved :=
  { Moved.none with writes := writes, flags := flags, values := values, stores := writes.map (fun e => { cell := g, part := (0, 0), loc := e.1 }) }

/-- Writes of token k from the array into a block that is not `whole`; bits as they come where no format changes, and otherwise an
element once its last bit is here. MX elements that come without their scales count unscaled in amax (DESIGN CHOICE, log 140). -/
def State.tokenIn (s : State) (g c : Nat) (b : Block) (k : Nat) (data : List Byte) : Moved :=
  let v := s.blockView g c b
  let w := fmtBits b.link
  let tok := fun (t : Nat) => if t = k then data else b.got.headD []
  (b.elems k).foldl (fun (m : Moved) j =>
    let x := b.index j
    let lo := max (w * j) (1024 * k)
    let hi := min (w * j + w) (1024 * k + 1024)
    if b.raw then
      m.append (Moved.landing g [(v.at_ x, patchBits (s.readLoc (v.at_ x)) w (lo - w * j) (hi - w * j) (leNat data / 2 ^ (lo - 1024 * k)))] 0
        (if hi = w * j + w ∧ b.came tok j then [b.elemVal tok j] else []))
    else if hi = w * j + w ∧ b.came tok j then
      let e := encodeElem v.fmt (b.rnd g j) b.sat (b.elemVal tok j)
      m.append (Moved.landing g [(v.at_ x, e.1)] e.2 [b.elemVal tok j])
    else m) Moved.none

/-- One block of an MX destination from the elements `js` of a part: as it came where it is one block of the same format on the link
(R64), and otherwise under a scale of its own (R63). -/
def State.blockIn (s : State) (g c : Nat) (b : Block) (tok : Nat → List Byte) (js : List Nat) : Moved :=
  let v := s.blockView g c b
  let j0 := js.headD 0
  let r : Nat × List Nat × BitVec 5 :=
    if b.link = v.fmt ∧ js = List.range' (j0 / 32 * 32) 32 then (b.elemScale tok j0, js.map (b.elemBits tok), 0)
    else encodeBlock (fmtElem v.fmt) (fun e => b.rnd g (js.getD e 0)) (js.map (b.elemVal tok))
  Moved.landing g ((v.scaleAt (v.blockIdx (b.index j0)), r.1) :: ((js.map (fun j => v.at_ (b.index j))).zip r.2.1)) r.2.2 []

/-- Writes of a whole part from all its tokens. -/
def State.partIn (s : State) (g c : Nat) (b : Block) (tokens : List (List Byte)) : Moved :=
  let v := s.blockView g c b
  let tok := fun (t : Nat) => tokens.getD t []
  let js := List.range b.count
  let here := js.filter (b.came tok)
  let start : Moved := { Moved.none with values := here.map (b.elemVal tok) }
  if b.across then start
  else if v.mx then
    let find := fun (x : List Nat) => (js.find? (fun j => decide (b.index j = x))).getD 0
    let blockOf := fun (j : Nat) => (List.range 32).map (fun e => find ((b.index j).set v.axis ((b.index j).getD v.axis 0 + e)))
    let heads := js.filter (fun j => decide ((b.index j).getD v.axis 0 % 32 = 0) && (blockOf j).all (b.came tok))
    heads.foldl (fun (m : Moved) j => m.append (s.blockIn g c b tok (blockOf j))) start
  else here.foldl (fun (m : Moved) j =>
    let e := encodeElem v.fmt (b.rnd g j) b.sat (b.elemVal tok j)
    m.append (Moved.landing g [(v.at_ (b.index j), e.1)] e.2 [])) start

/-- The cells that hold the elements of cell g's blocks, in order of rank, each with its block and its place there. -/
def State.crossCells (s : State) (g q : Nat) (b : Block) : List (Nat × Block) :=
  let x := s.queue g q
  (List.range 32).filterMap (fun e =>
    (s.openQueues.findSome? (fun h =>
      if h.2.1 = q ∧ h.2.2.owner = x.owner then
        (h.2.2.blocks.find? (fun y => decide (y.id = b.id ∧ y.rank = b.rank / 32 * 32 + e))).map (fun y => (h.1, y))
      else none)))

/-- Writes of the blocks that lie across 32 cells, once all their tokens have come; `last` are those of cell g, the last of them. Each cell
writes its elements, and the scale where its own scale tensor has one (DEDUCED, log 130). -/
def State.crossIn (s : State) (g q c : Nat) (b : Block) (last : List (List Byte)) : Moved :=
  let parts := (s.crossCells g q b).map (fun e => if e.1 = g then (g, b, last) else (e.1, e.2, e.2.got))
  let tok := fun (p : Nat × Block × List (List Byte)) (t : Nat) => p.2.2.getD t []
  if parts.length = 32 ∧ parts.all (fun p => decide (p.2.2.length = b.tokens)) then
    (List.range b.count).foldl (fun (m : Moved) j =>
      if parts.all (fun p => p.2.1.came (tok p) j) then
        let r := encodeBlock (fmtElem b.desc.f) (fun e => b.rnd g (32 * j + e)) (parts.map (fun p => p.2.1.elemVal (tok p) j))
        let w := (parts.zip r.2.1).flatMap (fun e =>
          let v := s.blockView e.1.1 c e.1.2.1
          let x := e.1.2.1.index j
          [(e.1.1, v.scaleAt (v.blockIdx x), r.1), (e.1.1, v.at_ x, e.2)])
        m.append { Moved.none with
          writes := w.map (·.2), flags := r.2.2, stores := w.map (fun e => { cell := e.1, part := (0, 0), loc := e.2.1 }) }
      else m) Moved.none
  else Moved.none

/-- Flags and amax of delivered data, for the owning context (R69, R74, R215). -/
def State.noteData (s : State) (c : Nat) (b : Block) (flags : BitVec 5) (vals : List Num) : State :=
  let s1 := s.addFlags c flags
  if b.amacc then s1.foldValues c vals else s1

/-- A request's token number: block number since SOPEN, and token of the part. -/
def tokenId (blockNo k : Nat) : Nat := blockNo * 2 ^ 21 + k

/-- The block that the next fetch, or the next delivery, belongs to, with its place in the list. -/
def Queue.fetchAt (q : Queue) : Option (Block × Nat) := q.blocks.zipIdx.find? (fun e => decide (e.1.fetched < e.1.tokens))
def Queue.sendAt (q : Queue) : Option (Block × Nat) := q.blocks.zipIdx.find? (fun e => decide (e.1.done < e.1.tokens))

def Queue.updBlock (q : Queue) (k : Nat) (f : Block → Block) : Queue :=
  { q with blocks := match q.blocks[k]? with
      | some b => q.blocks.set k (f b)
      | none => q.blocks }

/-- Room for fetched tokens: the ring, or one token on the way from staging. -/
def Queue.room (q : Queue) : Nat := max 1 q.ring - q.staged.length

/-! ## Deadline arbitration (R225) -/

/-- PERIOD as it acts (R226). -/
def State.beatPeriod (s : State) : Nat := max 16 (field s.beat.cfg.toNat 19 0)

/-- The rate of R225, in units of 1 / (65536 × beat_period). -/
def Queue.rateNum (q : Queue) (period : Nat) : Nat :=
  if q.history ∧ 0 < q.measured then q.measured * period else q.sd.rate

/-! ## Fetching and writing -/

/-- The windows that a block's tokens are read from or written to, scales among them where elements are converted (R236). -/
def Block.wins (b : Block) : List Nat :=
  (if b.desc.space = 0 then [b.desc.window] else []) ++ (match b.sdesc with
    | some d => if d.space = 0 ∧ !b.raw then [d.window] else []
    | none => [])

/-- The windows that a queue's next access needs resident: with a write to a window that has an aside region, also the save window,
which holds the record (R247, R258). -/
def State.streamWins (s : State) (x : Queue) (b : Block) : List Nat :=
  b.wins ++ (if x.dir && b.wins.any (fun w => (s.winEff x.owner w).aside) then [(s.saveAt x.owner).1] else [])

/-- The first of those windows that is not resident. -/
def State.streamMisses (s : State) (x : Queue) (b : Block) : Option Nat :=
  (s.streamWins x b).find? (fun w => !(s.winEff x.owner w).resident)

/-- A stack block that gives every cell the same data: a slice reads it once (R214). -/
def Block.shared (b : Block) : Bool :=
  decide (1 < b.parts) && decide (b.desc.space = 0) && decide (b.desc.e (b.desc.rank - 1) = 1)

/-- Its data, or the scales that its tokens need, are the same in every cell, and read once by the unit (R35). -/
def Block.spreads (b : Block) : Bool := b.spread b.desc || (!b.raw && b.sdesc.any b.spread)

/-- The cells that read a block for one another in queue q, each with its queue, the block there and its place: those of a slice, or with a
broadcast cell dimension those of the unit. -/
def State.sharers (s : State) (g q : Nat) (b : Block) : List (Nat × Queue × Block × Nat) :=
  let cells := if b.shared then (List.range 64).map (fun p => g / 64 * 64 + p) else if b.spreads then s.cells.map (·.1) else []
  cells.filterMap (fun h =>
    let x := s.queue h q
    if x.owner = (s.queue g q).owner ∧ x.st ≠ .closed then
      (x.blocks.zipIdx.find? (fun e => decide (e.1.id = b.id))).map (fun e => (h, x, e.1, e.2))
    else none)

/-- A read of token `t` of the block that stands at place k is outstanding, made by the cell itself or by one that shares it. -/
def State.tokenAwaited (s : State) (g q : Nat) (b : Block) (k t : Nat) : Bool :=
  s.outstanding (.stream g q (tokenId ((s.queue g q).blockNo + k) t))
    || (s.sharers g q b).any (fun e => s.outstanding (.stream e.1 q (tokenId (e.2.1.blockNo + e.2.2.2) t)))

/-- The fetched tokens of a DIR = 0 queue that it has not sent, from its front on: block, its place, token. -/
def Queue.fetchedTokens (x : Queue) : List (Block × Nat × Nat) :=
  x.blocks.zipIdx.flatMap (fun e => (List.range' e.1.done (e.1.fetched - e.1.done)).map (fun t => (e.1, e.2, t)))

/-- Tokens the array still has before it starves, which is the numerator of the urgency: those at the edge tile, and for fetches those staged
whose data is here (R225). -/
def State.haveTokens (s : State) (g q : Nat) (r : Resource) : Nat :=
  let x := s.queue g q
  let held := ((s.cell g).chan q).held
  if x.dir then x.ring - x.staged.length
  else if r = .edge then held
  else held + (x.fetchedTokens.filter (fun e => !s.tokenAwaited g q e.1 e.2.1 e.2.2)).length

/-- Urgency in cycles, which a queue's stack requests carry to Crossway. -/
def State.urgencyOf (s : State) (g q : Nat) : Nat :=
  s.haveTokens g q .crossway * (65536 * s.beatPeriod) / max 1 ((s.queue g q).rateNum s.beatPeriod)

/-- The first cell that fetches a token of a shared block brings it to the other cells of its slice (R214; DEDUCED, log 107), and with a
broadcast cell dimension what it has read anew, `kept`, to every other cell (R35). -/
def State.bringToken (s : State) (g q : Nat) (b : Block) (n : Nat) (bytes : List Byte) (kept : List (Bool × List Nat × Nat)) : State :=
  let spread := kept.filter (fun e => if e.1 then b.sdesc.any b.spread else b.spread b.desc)
  (s.sharers g q b).foldl (fun t e =>
    if e.1 = g then t
    else t.updQueue e.1 q (fun y => y.updBlock e.2.2.2 (fun z =>
      if b.shared then (if n < z.fetched then z else { z with brought := tabSet [] z.brought n bytes })
      else { z with kept := z.kept ++ spread }))) s

/-- The requests of one token's accesses, at the urgency its queue had (R225), and their bytes (R379). The fetches of one block of a cell take
one ID (R272). -/
def State.askStream (s : State) (c urgency : Nat) (write : Bool) (by_ : Requester) (group : Option (Nat × Nat × Nat)) (accesses : List Access) :
    State :=
  let l := transfers accesses
  (l.foldl (fun t e => t.ask
    { write := write, by_ := by_, slice := e.cell / 64, urgency := some urgency, window := some e.window, group := group } e.grans) s).addBytes c
    (transferBytes l)

/-- The next token of a DIR = 0 block is fetched, from a stack window or from staging. -/
def State.fetchToken (s : State) (g q : Nat) : State :=
  let x := s.queue g q
  match x.fetchAt with
  | none => s
  | some (b, k) =>
    let n := b.fetched
    match tabGet [] b.brought n with
    | d :: ds =>
      let y := x.updBlock k (fun b => { b with fetched := n + 1, brought := tabSet [] b.brought n [] })
      s.setQueue g q { y with staged := y.staged ++ [d :: ds] }
    | [] =>
      let reads := s.tokenReads g x.owner b n
      match if reads.isEmpty then none else s.streamMisses x b with
      | some w => s.haltQueue g q w
      | none =>
        let by_ : Requester := .stream g q (tokenId (x.blockNo + k) n)
        let t := (s.holding g x.owner b).tokenOut g x.owner b n
        let new_ := s.keepToken g x.owner b n
        let y := x.updBlock k (fun b => { b with fetched := n + 1, kept := b.kept ++ new_ })
        let s1 := (s.setQueue g q { y with staged := y.staged ++ [natLe 128 t.bits] }).noteData x.owner b t.flags t.values
        ((s1.bringToken g q b n (natLe 128 t.bits) new_).missEntries x.owner b.wins by_).askStream x.owner (s.urgencyOf g q) false by_
          (some (g, q, x.blockNo + k)) reads

/-- What a token's writes cover in each window they go to: first and last byte (R42). -/
def footprints (l : List Loc) : List ((Nat × Nat) × Nat × Nat) :=
  let st := l.filterMap (fun x => x.window.map (fun w => (w, x)))
  ((st.map (·.1)).eraseDups).map (fun w =>
    let mine := (st.filter (fun e => decide (e.1 = w))).map (·.2)
    (w, (mine.map (·.byte)).foldl min ((mine.map (·.byte)).headD 0), (mine.map (fun x => x.byte + x.span - 1)).foldl max 0))

/-- The writes of a token, made in place (R214), with the records of the windows that have an aside region (R247). -/
def State.landToken (s : State) (c : Nat) (m : Moved) : State :=
  (footprints (m.writes.map (·.1))).foldl (fun t e => t.recordWrite c e.1.2 e.2.1 e.2.2 true) (s.writeLocs m.writes)

/-- A token from the array is written to its block (R215, R217). -/
def State.writeToken (s : State) (g q : Nat) : State :=
  let x := s.queue g q
  match x.sendAt, x.staged with
  | some (b, k), data :: rest => (match s.streamMisses x b with
    | some w => s.haltQueue g q w
    | none =>
      let last := decide (b.done + 1 = b.tokens)
      let all := b.got ++ [data]
      let m := if b.whole then
          (if last then (s.partIn g x.owner b all).append (if b.across then s.crossIn g q x.owner b all else Moved.none) else Moved.none)
        else if data.isEmpty then Moved.none else s.tokenIn g x.owner b b.done data
      let y := x.updBlock k (fun b => { b with
        done := b.done + 1, got := if last && !b.across then [] else if b.whole then all else [data] })
      let s1 := ((s.setQueue g q { y with staged := rest }).landToken x.owner m).noteData x.owner b m.flags m.values
      let t := tokenId (x.blockNo + k) b.done
      let s2 := (s1.missEntries x.owner b.wins (.stream g q t)).askStream x.owner (s.urgencyOf g q) true (.streamWrite g q t) none m.stores
      s2.grantCredits g q)
  | _, _ => s

/-! ## The edge link -/

def epochOf (s : State) (g : Nat) : BitVec 4 := (s.region (g / 64)).epoch

/-- A queue serves the array only in its own layer (R229). -/
def State.inLayer (s : State) (x : Queue) : Bool := decide (x.sd.layer = s.beat.layer)

/-- The channels of a cell's edge link are held back by an activation or a re-imaging (R346). -/
def State.heldBack (s : State) (g : Nat) : Bool := (s.slice (g / 64)).held

/-- The activation discards the old epoch's tokens of the slice (R346, R347). -/
def State.discarding (s : State) (n : Nat) : Bool := match s.cfg.act with
  | some a => a.purge && decide (a.region = n) && decide (s.cfg.st = 3)
  | none => false

/-- PURGED counts discarded tokens, saturating (R344). -/
def State.countPurged (s : State) (n : Nat) : State :=
  { s with cfg := { s.cfg with purged := BitVec.ofNat 16 (min 0xFFFF (s.cfg.purged.toNat + n)) } }

/-- The front token of a DIR = 0 queue has been fetched and its data is here. -/
def State.frontReady (s : State) (g q : Nat) : Bool :=
  match (s.queue g q).sendAt with
  | some (b, k) => decide (b.done < b.fetched) && !s.tokenAwaited g q b k b.done
  | none => false

def Queue.delivers (q : Queue) : Bool := !q.dir && decide (q.st = .opened ∨ q.st = .halted ∨ q.st = .closing)

/-- The partner of a SELECT set, if it matches (R234). -/
def State.partnerOk (s : State) (g q : Nat) : Bool :=
  let x := s.queue g q
  let y := s.queue g x.sd.selq
  y.delivers && decide (y.sd.steer = 2 ∧ y.sd.selq = q ∧ y.sd.layer = x.sd.layer)

/-- SEL of the control token at the front, if it is there. -/
def State.frontSel (s : State) (g q : Nat) : Option Nat := (((s.cell g).chan q).ctl.head?).map (fun t => t.sel.toNat)

/-- The partner's token with the tag of the queue's own next token is present (R234). -/
def State.partnerReady (s : State) (g q : Nat) : Bool :=
  let x := s.queue g q
  s.frontReady g x.sd.selq && decide ((s.queue g x.sd.selq).nextTag = x.nextTag)

/-- Whether the queue asks for the edge link. A held channel sends a data token only to a control token that waits for it (R347). -/
def State.wantsEdge (s : State) (g q : Nat) : Bool :=
  let x := s.queue g q
  let credit := decide (0 < x.credits)
  !s.tap.pinsHeld && x.delivers && s.inLayer x && s.frontReady g q
    && (!s.heldBack g || (decide (s.cfg.st = 3) && !s.discarding (g / 64) && decide (x.sd.steer ≠ 0) && (s.frontSel g q).isSome))
    && (match x.sd.steer with
    | 0 => credit
    | 1 => (match s.frontSel g q with
      | some v => credit || decide (v ≠ 1)
      | none => false)
    | _ => if s.partnerOk g q then decide (q < x.sd.selq) && s.partnerReady g q && (match s.frontSel g q with
        | some v => credit || decide (2 ≤ v)
        | none => false)
      else true)

/-- Whether the queue asks for a resource; not for an access through a window that a flip holds (R242). -/
def State.wants (s : State) (g q : Nat) (r : Resource) : Bool :=
  let x := s.queue g q
  let live := decide (x.st = .opened ∨ x.st = .closing)
  let through := fun (b : Block) => !s.flipHold x.owner b.wins
  let moves := fun (space : Nat) => live && (if x.dir then (match x.sendAt with
      | some (b, _) => decide (b.desc.space = space) && !x.staged.isEmpty && through b
      | none => false)
    else (match x.fetchAt with
      | some (b, _) => decide (b.desc.space = space) && decide (0 < x.room) && through b
      | none => false))
  match r with
  | .edge => s.wantsEdge g q
  | .crossway => moves 0
  | .bank => moves 1

/-- Queue a is more urgent than queue b (R225). -/
def State.moreUrgent (s : State) (g : Nat) (r : Resource) (a b : Nat) : Bool :=
  let p := s.beatPeriod
  decide (s.haveTokens g a r * (s.queue g b).rateNum p < s.haveTokens g b r * (s.queue g a).rateNum p)

/-- The queue a cell grants a resource to; ties go to the lower number. -/
def State.grant (s : State) (g : Nat) (r : Resource) : Option Nat :=
  ((List.range 16).filter (fun q => s.wants g q r)).foldl (fun best q => match best with
    | none => some q
    | some b => if s.moreUrgent g r q b then some q else some b) none

/-- The front token leaves the queue, sent or dropped. -/
def Queue.popToken (x : Queue) : Queue := match x.sendAt with
  | some (_, k) => { x.updBlock k (fun b => { b with done := b.done + 1 }) with staged := x.staged.drop 1, nextTag := x.nextTag + 1 }
  | none => x

/-- A token goes out on channel q: it uses a credit and is held at the edge tile. `from_` is the queue it belongs to. -/
def State.sendToken (s : State) (g q from_ : Nat) : State :=
  let x := s.queue g from_
  let prim := s.queue g q
  match x.sendAt with
  | none => s
  | some (b, _) =>
    let t : Token := ⟨x.staged.headD [], BitVec.ofNat 4 q, prim.nextTag, epochOf s g, decide (b.done = 0), decide (b.done + 1 = b.tokens)⟩
    (s.updQueue g q (fun y => { y with credits := y.credits - 1 })).updCell g (fun y =>
      let k := y.chan q
      { y.setChan q { k with held := k.held + 1 } with lastTx := some t })

def State.popCtl (s : State) (g q : Nat) : State := s.updCell g (fun y => let k := y.chan q
                                                                          y.setChan q { k with ctl := k.ctl.drop 1 })

/-- The front token is gone, and no longer waits at the steering unit. -/
def State.passToken (s : State) (g q : Nat) : State :=
  (s.updQueue g q Queue.popToken).updCell g (fun y => let k := y.chan q
                                                      y.setChan q { k with dataWait := k.dataWait - 1 })

/-- The edge link's cycle for the queue granted it (R221, R232, R234). -/
def State.edgeGrant (s : State) (g q : Nat) : State :=
  let x := s.queue g q
  match x.sd.steer with
  | 0 => (s.sendToken g q q).passToken g q
  | 1 => (match s.frontSel g q with
    | some 0 => ((s.popCtl g q).passToken g q)
    | some 1 => ((s.sendToken g q q).popCtl g q).passToken g q
    | _ => s.faultQueue g q fcPairing)
  | _ =>
    if !s.partnerOk g q then s.faultQueue g q fcPairing
    else
      let p := x.sd.selq
      let pop := fun (t : State) => ((t.popCtl g q).passToken g q).passToken g p
      match s.frontSel g q with
      | some 0 => pop (s.sendToken g q q)
      | some 1 => pop (s.sendToken g q p)
      | _ => s.faultQueue g q fcPairing

/-- STREAM_TOKEN_SEND (R225): one resource of one cell, to the most urgent queue. -/
def State.streamGrant (s : State) (g : Nat) (r : Resource) : State := match s.grant g r with
  | none => s
  | some q => match r with
    | .edge => s.edgeGrant g q
    | _ => if (s.queue g q).dir then s.writeToken g q else s.fetchToken g q

def execStreamTokenSend (g : Fin 768) (r : Resource) (s : State) : Host.Outcome State Fault Refusal := .next (s.streamGrant g r)

/-- A token's data as 128 bytes. -/
def bytes128 (t : Token) : List Byte := natLe 128 (leNat t.data)

/-- A token that lands straight in staging takes its place in the block (RSIZE = 0). -/
def Queue.landed (x : Queue) : Queue :=
  if x.ring = 0 then (match x.fetchAt with
    | some (_, j) => x.updBlock j (fun b => { b with fetched := b.fetched + 1 })
    | none => x) else x

/-- A token for a queue without a ring is written as it lands; where a flip holds a window of its block, it waits in its place (R242). -/
def State.writeLanded (s : State) (g q : Nat) : State :=
  let x := s.queue g q
  let held := match x.sendAt with
    | some (b, _) => s.flipHold x.owner b.wins
    | none => false
  if x.ring = 0 ∧ held = false then s.writeToken g q else s

/-- A DIR = 1 token that arrives during PURGE writes nothing; its block goes on (R346, R348). An empty token in the staged
list stands for it. -/
def State.purgeData (s : State) (g q : Nat) : State :=
  let x := s.queue g q
  let k := (s.cell g).chan q
  if 0 < k.stale then ((s.updCell g (fun y => y.setChan q { k with stale := k.stale - 1 })).countPurged 1).grantCredits g q
  else if x.st = .closed ∨ !x.dir ∨ k.granted = 0 then s.fenceCell g 4
  else
    (((s.updCell g (fun y => y.setChan q { k with granted := k.granted - 1 })).updQueue g q (fun x =>
      ({ x with staged := x.staged ++ [[]] }).landed)).countPurged 1).writeLanded g q

/-- DATA_TOKEN_RECEIVE (R221 to R223, R229, R235). -/
def State.dataToken (s : State) (g : Nat) (t : Token) : State :=
  let q := t.chan.toNat
  let x := s.queue g q
  let k := (s.cell g).chan q
  if s.heldBack g then (if s.discarding (g / 64) then s.purgeData g q else s)
  else if 0 < k.stale then (s.updCell g (fun y => y.setChan q { k with stale := k.stale - 1 })).grantCredits g q
  else if x.st = .closed ∨ !x.dir ∨ k.granted = 0 then s.fenceCell g 4
  else
    let used := s.updCell g (fun y => y.setChan q { k with granted := k.granted - 1 })
    if t.epoch ≠ epochOf s g then used.faultQueue g q fcEpochStale
    else if x.st = .faulted then used
    else if !s.inLayer x then s
    else
      let y := ({ x with staged := x.staged ++ [bytes128 t], counted := x.counted + 1 }).landed
      (used.setQueue g q y).writeLanded g q

def execDataTokenReceive (g : Fin 768) (t : Token) (s : State) : Host.Outcome State Fault Refusal := .next (s.onPins (·.dataToken g t))

/-- Data tokens that wait for a control token of channel q: its own, and in a SELECT set its partner's (R234, R347). -/
def State.dataWaits (s : State) (g q : Nat) : Nat :=
  let x := s.queue g q
  max ((s.cell g).chan q).dataWait (if x.sd.steer = 2 ∧ s.partnerOk g q then ((s.cell g).chan x.sd.selq).dataWait else 0)

/-- CONTROL_TOKEN_RECEIVE (R233, R235). -/
def State.controlToken (s : State) (g : Nat) (t : CtlToken) : State :=
  let q := t.chan.toNat
  let x := s.queue g q
  let k := (s.cell g).chan q
  if s.heldBack g ∧ s.discarding (g / 64) then s.countPurged 1
  else if s.heldBack g ∧ (s.cfg.st ≠ 3 ∨ s.dataWaits g q ≤ k.ctl.length ∨ t.tag ≠ x.nextTag + BitVec.ofNat 16 k.ctl.length) then s
  else if x.st = .closed ∨ 16 ≤ k.ctl.length then s
  else if t.epoch ≠ epochOf s g then s.faultQueue g q fcEpochStale
  else if x.sd.steer = 0 then s.faultQueue g q fcPairing
  else if t.tag ≠ x.nextTag + BitVec.ofNat 16 k.ctl.length then s.faultQueue g q fcPairing
  else s.updCell g (fun y => y.setChan q { k with ctl := k.ctl ++ [t] })

def execControlTokenReceive (g : Fin 768) (t : CtlToken) (s : State) : Host.Outcome State Fault Refusal := .next (s.onPins (·.controlToken g t))

/-- CREDIT_RETURN (R222, R223). -/
def State.creditReturn (s : State) (g q n : Nat) (ok : Bool) : State :=
  let k := (s.cell g).chan q
  if !ok ∨ k.held < n then s.fenceCell g 4
  else
    let s1 := s.updCell g (fun y => y.setChan q { k with held := k.held - n })
    s1.updQueue g q (fun x =>
      if x.st = .closed ∨ x.dir then x else { x with credits := x.sd.depth - (k.held - n), counted := x.counted + n })

def execCreditReturn (g : Fin 768) (chan countM1 : BitVec 4) (parityOk : Bool) (s : State) : Host.Outcome State Fault Refusal :=
  .next (s.onPins (·.creditReturn g chan.toNat (countM1.toNat + 1) parityOk))

/-- The channel whose control tokens steer queue q: its own, or in a SELECT set the primary queue's (R234). -/
def State.primary (s : State) (g q : Nat) : Nat :=
  let x := s.queue g q
  if x.sd.steer = 2 ∧ s.partnerOk g q then min q x.sd.selq else q

/-- PAIR_TIMEOUT (R233, R234): something waits at the steering unit and what it waits for is not there. A control token on the channel of a
set's second queue waits for nothing that can come. -/
def State.pairTimeout (s : State) (g q : Nat) : State :=
  let x := s.queue g q
  let ctl := (s.frontSel g (s.primary g q)).isSome
  let data := s.frontReady g q
  let other := decide (x.sd.steer ≠ 2) || s.partnerReady g q
  let stray := decide (s.primary g q ≠ q) && (s.frontSel g q).isSome
  if x.delivers ∧ x.sd.steer ≠ 0 ∧ (stray ∨ ((ctl ∨ data) ∧ !(ctl && data && other))) then s.faultQueue g q fcPairing else s

def execPairTimeout (g : Fin 768) (chan : BitVec 4) (s : State) : Host.Outcome State Fault Refusal := .next (s.pairTimeout g chan.toNat)

/-! ## Completion of blocks (R217, R218) -/

def execBlockComplete (c : Fin 64) (q : BitVec 4) (id : Nat) (s : State) : Host.Outcome State Fault Refusal :=
  .next (s.blockComplete c q.toNat id)

/-- RATE_WINDOW_END (R225). -/
def State.rateWindow (s : State) (g q : Nat) : State :=
  if (s.queue g q).st = .closed then s
  else s.updQueue g q (fun x => { x with measured := x.counted, counted := 0, history := true })

def execRateWindowEnd (g : Fin 768) (q : BitVec 4) (s : State) : Host.Outcome State Fault Refusal := .next (s.rateWindow g q.toNat)

/-! ## Carousel (R230, R231) -/

/-- The region that is delivered next: the region itself, or its shadow. -/
def Carousel.here (k : Carousel) : TDesc :=
  if k.swapped then { k.desc with offset := (k.desc.offset + shadowStart k.desc - k.desc.lo none).toNat } else k.desc

def Carousel.there (k : Carousel) : TDesc :=
  if k.swapped then k.desc else { k.desc with offset := (k.desc.offset + shadowStart k.desc - k.desc.lo none).toNat }

/-- The block of one delivery, as stored and without scales. Of a region whose length is no multiple of 128 B the tail is not delivered: the
spec gives a CAROUSEL neither a SHAPE case for it nor a part of a token (R230; DESIGN CHOICE, log 122). -/
def Carousel.block (k : Carousel) : Block :=
  { id := k.id, n := BitVec.ofNat 32 k.id, seed := 0, desc := k.here, sdesc := k.sdesc, rank := 0, cells := k.cells, round := 0, sat := false, amacc := false, afmt := 0
    tokens := prodNat k.desc.exts * fmtBits (fmtElem k.desc.f) / 1024, fetched := 0, done := 0, fromCarousel := true, got := [], brought := [], kept := [] }

/-- CAROUSEL: its first delivery follows the blocks already appended. Each delivery counts as a block (R216, R230), so that it waits for
room as an SBLOCK does, without that instruction's bound (R181; DEDUCED, log 107). -/
def State.carouselMove (s : State) (c : Nat) (i : Cur) : State :=
  match i.descAt 0 with
  | none => s.retireHead c i
  | some d =>
    let k : Carousel :=
      ⟨i.f 47 42, i.f 41 26, decide (i.f 41 26 = 0), d, i.descOfRole (.scaleOf 0), false, i.cells.length, i.n.toNat⟩
    (i.cells.foldl (fun s g => s.updQueue g i.queueNo (fun x => { x with carousel := some k, blocks := x.blocks ++ [k.block] })) s).retireHead c i

def execCarousel (c : Fin 64) (s : State) : Host.Outcome State Fault Refusal :=
  .next (s.whenRoom c opCarousel (fun t i => t.carouselMove c i))

/-- The first block of a queue is complete in every cell, and its signal is held (R218). -/
def State.signalHeld (s : State) (q : Nat) (x : Queue) : Bool := match x.blocks.head? with
  | some b =>
    let l := s.blockCells x.owner q b.id
    decide (l.length = b.cells) && l.all (·.2) && !s.awaitsSlice x.owner q b.id && (s.signalBlock x.owner x).isNone
  | none => false

/-- Every cell of the slice has delivered (R231), no signal of a delivery, or of a block before it, is held (R218), and no frame of the slice
is being rewritten (R365). -/
def State.rotationReady (s : State) (n q : Nat) : Bool :=
  (List.range 64).all (fun p =>
    let x := s.queue (64 * n + p) q
    x.carousel.isSome && x.blocks.all (fun b => !b.fromCarousel || decide (b.tokens ≤ b.done)))
    && !s.signalHeld q (s.queue (64 * n) q) && (s.region n).mending.isEmpty

/-- Bytes of the region a cell delivers. -/
def State.regionBytes (s : State) (g : Nat) (d : TDesc) : List Byte :=
  (s.cell g).mem.read (d.lo none).toNat (d.hi none + 1 - d.lo none).toNat

/-- The shift into the shadow of cell (c + STEP) mod 64, and the swap. -/
def State.shiftRegions (s : State) (n q : Nat) : State :=
  (List.range 64).foldl (fun t p =>
    match (s.queue (64 * n + p) q).carousel with
    | some k =>
      let g := 64 * n + (p + k.step) % 64
      t.updCell g (fun x => { x with mem := x.mem.write (k.there.lo none).toNat (s.regionBytes (64 * n + p) k.here) })
    | none => t) s

/-- After a rotation: the Carousel ends, or the next delivery is appended. -/
def Queue.rotated (x : Queue) : Queue := match x.carousel with
  | none => x
  | some k =>
    let j := { k with swapped := !k.swapped, left := k.left - 1, id := k.id + 2 ^ 32 }
    if (!k.endless && decide (j.left = 0)) || decide (x.st = .closing) || x.closeRec then { x with carousel := none }
    else { x with carousel := some j, blocks := x.blocks ++ [j.block] }

/-- The routing words of a shift fail their parity: the shift waits for the rewrite, and the queue's context stops at its next instruction
boundary, since the CAROUSEL itself has retired (R365; DEDUCED, log 136). -/
def State.upsetShift (s : State) (n q frame : Nat) : State :=
  ((s.updRegion n (fun r => { r with mending := r.mending ++ [frame] })).logUpset n frame false).boundaryFault (s.queue (64 * n) q).owner
    { code := fcCfgUpset, stage := 6, cell := some (64 * n) }

/-- CAROUSEL_ROTATION (R230, R231). -/
def State.rotateSlice (s : State) (n q : Nat) : State :=
  if n < s.nSlices ∧ s.rotationReady n q then
    match (s.region n).upset.head? with
    | some f => s.upsetShift n q f
    | none => (List.range 64).foldl (fun t p => t.updQueue (64 * n + p) q Queue.rotated) (s.shiftRegions n q)
  else s

def execCarouselRotation (n : Fin 12) (q : BitVec 4) (s : State) : Host.Outcome State Fault Refusal := .next (s.rotateSlice n q.toNat)

end Sys2Proof.Machine
end

