-- ==== Sys2Proof/Machine/Contexts.lean ====
section
/-!
DEFINITION. The control port's commands to a context: submitting work, RUN and STOP (R184 to R187, R205), semaphores (R194,
R195), windows (R399, R400), host abort and replay (R249, R250, R256), and the interrupt registers (R360, R361).
-/
namespace Sys2Proof.Machine

/-- Before step 3 of R336 the port answers only three registers and no write has an effect (R387); in reset CONTROL takes none (R404). -/
def State.served (s : State) (f : State → State) : State := if s.serving then f s else s

/-- A context is RUNNING. -/
def State.anyRunning (s : State) : Bool := (List.range 64).any s.running

/-- The unit leaves PARK once a context is RUNNING (R335). -/
def State.leavePark (s : State) : State :=
  if s.clk.pwState = 2 ∧ s.anyRunning then { s with clk := { s.clk with pwState := 4 } } else s

/-! ## Submitting work (R185 to R187) -/

def State.setReject (s : State) (c : Nat) (db : Bool) : State :=
  s.updRun c (fun r => if db then { r with dbReject := true } else { r with semReject := true })

/-- DOORBELL (R186): the tail never laps the head and never moves back. -/
def State.doorbell (s : State) (c : Nat) (v : Word) : State :=
  let r := (s.ctx c).run
  let t := v.setWidth 32
  if (t - r.head).toNat ≤ s.rlen c ∧ (r.tail - r.head).toNat ≤ (t - r.head).toNat then
    (s.updRun c (fun r => { r with tail := t, st := if r.st = .idle ∧ t ≠ r.head then .running else r.st })).leavePark
  else s.setReject c true

def execDoorbell (c : Fin 64) (v : Word) (s : State) : Host.Outcome State Fault Refusal := .next (s.served (·.doorbell c v))

/-- RCP_HEAD_WRITE (R187, R255). -/
def State.headWrite (s : State) (c : Nat) (v : Word) : State :=
  let r := (s.ctx c).run
  let h := v.setWidth 32
  if r.st = .stopped ∧ (r.tail - h).toNat ≤ s.rlen c then
    (s.updCtx c (fun x => { x with run := { x.run with head := h, resumable := false }, cur := [], fetched := [] })).setReplayHead c h
  else s.setReject c true

def execRcpHeadWrite (c : Fin 64) (v : Word) (s : State) : Host.Outcome State Fault Refusal := .next (s.served (·.headWrite c v))

/-! ## RUN and STOP -/

/-- Bytes of a save area on the build (R258). -/
def State.saveSize (s : State) : Nat := 0x21000 + s.nCells * 0x81000

/-- The save window's checks (R258): the fault code, if one fails. -/
def State.saveCheck (s : State) (c : Nat) : Option Nat :=
  let (w, o) := s.saveAt c
  let e := s.winLook c w
  if !e.valid || !e.read || !e.write || (s.follow c w).isSome then some fcProtect
  else if !s.winConsistent e || decide (e.limit < o + s.saveSize) then some fcBounds
  else none

/-- The window table's checks (R399), then the save window's. -/
def State.runCheck (s : State) (c : Nat) : Option Nat :=
  let t := (s.ctx c).cfg.winTab.toNat
  let k := field t 63 60
  if s.stackState k ≠ 1 ∨ s.capBytes k < field t 47 12 * 4096 + 0x8000 then some fcBounds else s.saveCheck c

/-- RUN (R184). A failed check leaves HEAD and a halted instruction as they are. -/
def State.runCtx (s : State) (c : Nat) : State :=
  let r := (s.ctx c).run
  if r.st ≠ .stopped then s
  else match s.runCheck c with
    | some code => s.stopFault c { code := code, stage := 0, resumable := r.resumable }
    | none => ((s.winTouch c (s.saveAt c).1).updRun c (fun r =>
        { r with st := if r.head = r.tail then .idle else .running, cause := 0, fcode := 0, stopReq := false, resWin := none
                 hostSince := false, quantumOver := false })).leavePark

def execRun (c : Fin 64) (s : State) : Host.Outcome State Fault Refusal := .next (s.served (·.runCtx c))

/-- The SWAIT at HEAD waits and is satisfied: it subtracts and retires before a STOP takes effect (R205). -/
def State.swaitReady (s : State) (c : Nat) : Bool := match s.waitHead c opSwait with
  | none => false
  | some i => match s.waitsOn c i with
    | none => false
    | some (o, p) => s.waiterReady c o p i

/-- A host STOP (R205). A halted instruction keeps its position; a wait is abandoned; an instruction whose decode or validation
still reads the stacks is abandoned; any other completes or reaches its halt point. -/
def State.hostStop (s : State) (c : Nat) : State :=
  match (s.ctx c).run.st with
  | .stopped => s.updRun c (fun r => { r with hostSince := true })
  | .running => (match s.head c with
    | none => s.stopCtx c 1 0 false
    | some i =>
      if i.phase = .ready ∧ i.halted then s.stopCtx c 1 0 true
      else if i.phase = .ready ∧ s.fetchWaits c i.n then s.stopCtx c 1 0 false
      else if i.phase = .waiting ∧ (i.op = opSblock ∨ i.op = opCarousel) then s.stopCtx c 1 0 false
      else s.updRun c (fun r => { r with stopReq := true }))
  | .waiting => if s.swaitReady c then (s.updRun c (fun r => { r with stopReq := true })).swaitWake c else s.stopCtx c 1 0 false
  | .idle => s.stopCtx c 1 0 false

def execStop (c : Fin 64) (s : State) : Host.Outcome State Fault Refusal := .next (s.served (·.hostStop c))

/-! ## Semaphores (R194, R195) -/

def State.semWrite (s : State) (c p : Nat) (v : Word) : State :=
  if (s.ctx c).run.st = .stopped ∧ (s.bindOf c p).isNone then
    (s.semSet c p false (v.setWidth 32)).semSet c p true ((v >>> 32).setWidth 32)
  else s

def execSemWrite (c : Fin 64) (p : Fin 1024) (v : Word) (s : State) : Host.Outcome State Fault Refusal :=
  .next (s.served (·.semWrite c p v))

def State.semSignal (s : State) (c : Nat) (v : Word) : State :=
  let w := v.toNat
  match s.semPair c (field w 26 17) with
  | none => s.setReject c false
  | some (o, p) => match s.semAdd o p (bitAt w 16) (field w 15 0) with
    | some s1 => s1
    | none => s.setReject c false

def execSemSignal (c : Fin 64) (v : Word) (s : State) : Host.Outcome State Fault Refusal := .next (s.served (·.semSignal c v))

/-! ## Windows (R399, R400) -/

/-- WIN_SYNC: the cached entries are discarded and the synchronisation begins. -/
def State.winSync (s : State) (c : Nat) (v : Word) : State :=
  if (s.ctx c).win.busy then s
  else
    let all := bitAt v.toNat 62
    let w := v.setWidth 10
    s.updCtx c (fun x => { x with win := { x.win with
      busy := true, all := all, window := w, since := s.xb.nextNum, cache := if all then [] else tabSet none x.win.cache w.toNat none } })

def execWinSync (c : Fin 64) (v : Word) (s : State) : Host.Outcome State Fault Refusal := .next (s.served (·.winSync c v))

/-- Bits of CTX_WINTAB that hold a value. -/
def winTabMask : Word := 0xF000FFFFFFFFF000

def State.wintabWrite (s : State) (c : Nat) (v : Word) : State :=
  if (s.ctx c).run.st = .stopped then
    s.updCtx c (fun x => { x with cfg := { x.cfg with winTab := v &&& winTabMask }, win := { x.win with cache := [] } })
  else s

def execWintabWrite (c : Fin 64) (v : Word) (s : State) : Host.Outcome State Fault Refusal := .next (s.served (·.wintabWrite c v))

/-! ## Host abort and replay (R249, R250, R256, R310) -/

def State.genResult (s : State) (c : Nat) (r : BitVec 3) : State :=
  s.updGen c (fun g => { g with result := r, abortBit := false, replayBit := false })

/-- The context stops for a winning abort; a COMMIT whose flip has not begun, or an ABORT, is abandoned, and no position is kept. -/
def State.abortStop (s : State) (c : Nat) : State :=
  if (s.ctx c).run.st = .stopped then s.settleAbort c
  else match s.head c with
    | some i => if i.op = opCommit ∨ i.op = opAbort then s.stopCtx c 1 0 false else s.hostStop c
    | none => s.hostStop c

def State.hostAbort (s : State) (c : Nat) : State :=
  let g := (s.ctx c).gen
  if g.abortBit ∨ g.replayBit then s
  else
    let s0 := s.updRun c (fun r => { r with hostSince := true })
    if g.flip ≠ .none ∨ (g.isOpen ∧ g.member = .committed) then s0.genResult c 2
    else if !g.isOpen then s0.genResult c 0
    else
      let s1 := s0.updGen c (fun g => { g with abortBit := true })
      if g.member = .voted then s1 else s1.abortStop c

def execHostAbort (c : Fin 64) (s : State) : Host.Outcome State Fault Refusal := .next (s.served (·.hostAbort c))

/-- What REPLAY asks of the state (R256). -/
def State.replayOk (s : State) (c : Nat) : Bool :=
  let x := s.ctx c
  decide (x.run.st = .stopped) && !x.gen.noReplay && decide ((x.run.tail - x.gen.replayHead).toNat ≤ s.rlen c)
    && (s.saveCheck c).isNone && (s.saveWindow c).resident

/-- Zero in the 32 tile state words of every cell record. -/
def State.clearTileWords (s : State) (c : Nat) : State :=
  (List.range s.nCells).foldl (fun s g => s.saveStore c (.replaySave c) (cellRecAt g) (List.replicate 256 0)) (s.saveEntry c (.replaySave c))

def State.clearTiles (s : State) (c : Nat) : State :=
  (s.ownedCells c).foldl (fun s g => (s.updCell g (fun x => x.emptyAll s.build s.free)).bump 32) s

/-- REPLAY's RESULT is set once its writes have succeeded. -/
def State.replaySettle (s : State) (c : Nat) : State :=
  let g := (s.ctx c).gen
  if g.replaying ∧ g.saveRetry = false ∧ s.outstanding (.replaySave c) = false then
    (s.genResult c 3).updGen c (fun g => { g with replaying := false })
  else s

def State.replay (s : State) (c : Nat) : State :=
  let g := (s.ctx c).gen
  if g.abortBit ∨ g.replayBit then s
  else if !s.replayOk c then s.genResult c 4
  else
    let s1 := if g.isOpen then s.releaseOwn c else s
    let s2 := s1.updCtx c (fun x =>
      { x with
        run := { x.run with head := x.gen.replayHead, resumable := false }
        gen := { x.gen with replayBit := true, replaying := true, member := .idle }
        cur := [], fetched := [] })
    ((s2.clearTiles c).clearTileWords c).replaySettle c

def execReplay (c : Fin 64) (s : State) : Host.Outcome State Fault Refusal := .next (s.served (·.replay c))

/-! ## Interrupt registers (R360, R361) -/

/-- A write to an interrupt register: written ones clear pending bits, enables take the value. -/
def irqWrite (r : BitVec 4) (v : Nat) : BitVec 4 :=
  BitVec.ofNat 4 ((r.toNat / 4 % 4) &&& (3 - v / 4 % 4)) * 4 + BitVec.ofNat 4 (v % 4)

/-- Vectors (0 or 1) whose enable rises while they are pending. -/
def irqRises (old new : BitVec 4) : List Nat :=
  [0, 1].filter (fun k => !bitAt old.toNat k && bitAt new.toNat k && bitAt new.toNat (2 + k))

def State.sendIf (s : State) (l : List Nat) : State := if s.msiOn then l.foldl State.sendMsg s else s

def State.ctxIrqWrite (s : State) (c : Nat) (v : Word) : State :=
  let old := (s.ctx c).irq
  let new := irqWrite old v.toNat
  (s.updCtx c (fun x => { x with irq := new })).sendIf ((irqRises old new).map (fun k => 2 * c + k))

def execCtxIrqWrite (c : Fin 64) (v : Word) (s : State) : Host.Outcome State Fault Refusal := .next (s.served (·.ctxIrqWrite c v))

def State.glbIrqWrite (s : State) (v : Word) : State :=
  let old := s.glb.irq
  let new := irqWrite old v.toNat
  ({ s with glb := { s.glb with irq := new } }).sendIf ((irqRises old new).map (fun k => 128 + k))

def execGlbIrqWrite (v : Word) (s : State) : Host.Outcome State Fault Refusal := .next (s.served (·.glbIrqWrite v))

/-- Vectors that are pending and enabled. -/
def State.vectorsDue (s : State) : List Nat :=
  let due := fun (r : BitVec 4) => [0, 1].filter (fun k => bitAt r.toNat k && bitAt r.toNat (2 + k))
  (List.range 64).flatMap (fun c => (due (s.ctx c).irq).map (fun k => 2 * c + k)) ++ (due s.glb.irq).map (fun k => 128 + k)

/-- MSI_ENABLE_WRITE: GLB_MSI_DATA takes the value; a rising ENABLE sends what is due. -/
def State.msiEnableWrite (s : State) (v : Word) : State :=
  let rises := !s.msiOn && bitAt v.toNat 63
  let s1 := { s with glb := { s.glb with msiData := v &&& 0x80000000FFFFFFFF } }
  if rises then s1.vectorsDue.foldl State.sendMsg s1 else s1

def execMsiEnableWrite (v : Word) (s : State) : Host.Outcome State Fault Refusal := .next (s.served (·.msiEnableWrite v))

/-- BAD_ACCESS (R382), where the port takes an access (R410). -/
def execBadAccess (_write : Bool) (s : State) : Host.Outcome State Fault Refusal :=
  .next (if s.cpTakes then { s with glb := { s.glb with badAcc := true } } else s)

end Sys2Proof.Machine
end

