-- ==== Sys2Proof/Machine/Stack.lean ====
section
/-!
DEFINITION. Stack ports and stacks in service: responses, timeouts and retries (R262 to R264, R268, R406), retiring a stack with
its migration, and returning it (R275 to R280).
-/
namespace Sys2Proof.Machine

/-! ## Error counters (R373) -/

/-- A 16-bit field of a counter register counts one more, saturating. -/
def bumpField (w : Word) (lo : Nat) : Word :=
  let v := field w.toNat (lo + 15) lo
  if v = 0xFFFF then w else BitVec.ofNat 64 (w.toNat + 2 ^ lo)

def State.countErr (s : State) (k lo : Nat) : State :=
  { s with xb := { s.xb with errs := tabSet 0 s.xb.errs k (bumpField (tabGet 0 s.xb.errs k) lo) } }

/-! ## Where a failed or finished request leads (R264) -/

def stackTimeout (k : Nat) (err : Bool) : FaultRec := { code := fcTimeout, stage := 4, port := some k, err := err }

/-- The migration stops with RESULT ERROR; the stack stays RETIRING (R277). -/
def State.migrationError (s : State) : State := match s.xb.mig with
  | some m =>
    ({ s with xb := { s.xb with mig := none, go := false, result := 3, entry := BitVec.ofNat 16 m.entry } }).service
  | none => s

/-- A load ends with a RESULT: GO and ACTIVATE clear, SERVICE is sent (R342, R344). -/
def State.loadResult (s : State) (result cause : BitVec 4) (st : BitVec 3) : State :=
  ({ s with cfg := { s.cfg with result := result, cause := cause, st := st, go := false, activate := false } }).service

/-- The image under load is rejected (R343): `region` and `frame` name it. -/
def State.rejectLoad (s : State) (cause region frame : Nat) : State :=
  let s1 := { s with cfg := { s.cfg with lsRegion := BitVec.ofNat 8 region, lsFrame := BitVec.ofNat 24 frame, img := ⟨[], none, [], 0⟩, request := none } }
  (s1.loadResult 3 (BitVec.ofNat 4 cause) 0).globalFault fcCfgReject 1 region cause

/-- Region of the image under load; 0 before its header is complete. -/
def State.imgRegion (s : State) : Nat := match s.cfg.img.hdr with
  | some h => h.region.toNat
  | none => 0

/-- A read of the descriptor fetcher or the walker fails: the instruction that it serves stops with TIMEOUT and no effect when it
stands at HEAD (R154, R264, R402); one that has begun to move data leaves what it wrote undefined. A piece of the recipe that lies further
ahead is read again. -/
def State.fetchFail (s : State) (c : Nat) (n : BitVec 32) (f : FaultRec) : State :=
  let x := s.ctx c
  let mine := fun (i : Cur) => decide (i.n = n ∧ i.phase = .ready) && !i.halted && i.fault.isNone
  let begun := s.head c |>.filter (fun i => decide (i.n = n) && (i.halted || decide (i.phase = .moving ∨ i.phase = .moved)))
  if !s.active c then s
  else if let some i := begun then
    ((if i.phase = .ready then s else s.scrambleWrites c i).dropWork c).stopFault c f
  else if x.cur.any mine then
    let s1 := s.updCtx c (fun y => { y with cur := y.cur.map (fun i => if mine i then { i with fault := some f } else i) })
    if x.run.head = n then s1.boundary c else s1
  else if x.fetched.any (fun e => decide (e.1 = n)) then
    (s.updCtx c (fun y => { y with fetched := y.fetched.takeWhile (fun e => decide (e.1 ≠ n)) })).joinFaulted c n f
  else s

/-- A stream's request failed: its queue is FAULTED, and so is every queue that shares the token and waits for it. A request
of a stream that has closed leads nowhere. -/
def State.failStream (s : State) (k g q tok : Nat) (err : Bool) : State :=
  let x := s.queue g q
  let n := tok / 2 ^ 21
  let t := tok % 2 ^ 21
  match (if x.blockNo ≤ n then x.blocks[n - x.blockNo]? else none) with
  | none => s
  | some b =>
    let others := (s.sharers g q b).filter (fun e => decide (e.1 ≠ g ∧ e.2.2.1.done ≤ t ∧ t < e.2.2.1.fetched))
    let s1 := (s.sharers g q b).foldl (fun s e => s.updQueue e.1 q (fun y => y.updBlock e.2.2.2 (fun z => z.forget t))) s
    (g :: others.map (·.1)).foldl (fun s h => s.faultQueueAt h q fcTimeout (some k) err) s1

/-- Nothing is answered any more when the other requests of a WRITE or READ_REQ complete. -/
def State.dropAnswer (s : State) (f : Frame) : State :=
  let off := fun (l : List Req) => l.map (fun r => if r.ackTo = some f then { r with ackTo := none } else r)
  s.xb.ports.foldl (fun t e =>
    let k := e.1
    let p := t.stackPort k
    if (p.wait ++ p.reqs).any (fun r => decide (r.ackTo = some f)) then t.setStackPort k { p with wait := off p.wait, reqs := off p.reqs }
    else t) s

/-- A WRITE or READ_REQ of another node is answered TIMEOUT. -/
def State.failAnswer (s : State) (r : Req) : State := match r.ackTo with
  | some f => (s.dropAnswer f).emit (f.failed fcTimeout)
  | none => s

/-- A read of a Ledger copy ended in ERR: what it read is not intact (R260). -/
def State.copyBad (s : State) (k : Nat) (r : Req) : State :=
  let l := (List.range r.len).map (fun j => (k, r.addr + 64 * j))
  { s with fab := { s.fab with ledgerBad := s.fab.ledgerBad ++ l.filter (fun b => !s.fab.ledgerBad.contains b) } }

/-- The request of another node that the walker resolves an entry for is answered TIMEOUT, and is resolved no further (R264). -/
def State.failResolve (s : State) (a : Arrival) : State :=
  let off := fun (l : List Req) => l.map (fun r => if r.by_ = .resolve a then { r with by_ := .table } else r)
  let s1 := s.xb.ports.foldl (fun (t : State) e =>
    let k := e.1
    let p := t.stackPort k
    if (p.wait ++ p.reqs).any (fun r => decide (r.by_ = .resolve a)) then t.setStackPort k { p with wait := off p.wait, reqs := off p.reqs }
    else t) { s with fab := { s.fab with resolving := s.fab.resolving.erase a } }
  s1.refuseReq a.frame fcTimeout

/-- The read of a combine fails: its locked sequence ends with no write, and its WRITE is answered TIMEOUT. -/
def State.failCombine (s : State) (m : Nat) : State := match s.xb.locks.find? (fun l => decide (l.master = m)) with
  | some ⟨_, _, .combine a⟩ =>
    State.refuseReq { s with xb := { s.xb with locks := s.xb.locks.filter (fun l => decide (l.master ≠ m)) } } a.frame fcTimeout
  | _ => s

/-- The effect of a request that timed out or ended in ERR (R264); of two copies of a Ledger entry the other is used (R260). Where that
table names no effect for a requester, the model's own is taken (DEDUCED, log 20). -/
def State.failReq (s : State) (k : Nat) (r : Req) (err : Bool) : State :=
  match r.by_ with
  | .instr c => (match s.head c with
    | some i =>
      if s.active c ∨ i.halted then
        ((((s.scrambleWrites c i).scrambleBuffers c i).dropLoad c).stopFault c (stackTimeout k err))
      else s
    | none => s)
  | .save c => (match s.head c with
    | some i => if s.active c ∧ i.is opCtxsave ∧ i.phase = .moved then s.stopFault c (stackTimeout k err) else s
    | none => s)
  | .fetch c n stage step => if step = 7 ∧ err then s.copyBad k r else s.fetchFail c n { mkFault fcTimeout stage step none none with port := some k, err := err }
  | .stream g q t => s.failStream k g q t err
  | .streamWrite g q t => s.failStream k g q t err
  | .catchup c w => s.setRec c w { s.winRec c w with retry := true }
  | .tableWrite c w => s.updGen c (fun g => { g with tblRetry := if g.tblRetry.contains w then g.tblRetry else g.tblRetry ++ [w] })
  | .replaySave c => s.updGen c (fun g => { g with saveRetry := true })
  | .migration => s.migrationError
  | .plan => s.migrationError
  | .switchOut _ => s
  | .taster => s
  | .retain => s
  | .table => if err ∧ !r.write then s.copyBad k r else s
  | .resolve a => if err then s.copyBad k r else s.failResolve a
  | .image => if s.cfg.st = 1 then s.rejectLoad 14 s.imgRegion 0 else s
  | .remote _ _ => s.failAnswer r
  | .combine m => s.failCombine m

/-- The new GEN of a window is in the table (R242 step 4). -/
def State.tableDone (s : State) (c w : Nat) : State :=
  match tabGet none (s.ctx c).gen.newGen w with
  | none => s
  | some g =>
    let a := s.winAddr c w
    (s.setStack a.1 ((s.stack a.1).write (a.2 + 24) (natLe 4 g.toNat))).updGen c (fun x => { x with newGen := tabSet none x.newGen w none })

/-- The effect of a request that has completed; a WRITE is accepted, and a READ_REQ has its bytes, once the last piece is (R290). -/
def State.doneReq (s : State) (r : Req) : State :=
  match r.by_ with
  | .replaySave c => s.replaySettle c
  | .tableWrite c w => if s.outstanding r.by_ then s else s.tableDone c w
  | .remote _ _ => (match r.ackTo with
    | some f => if s.allReqs.any (fun e => decide (e.2.ackTo = some f)) then s else s.emit f
    | none => s)
  | _ => s

/-- The outstanding request of a channel with a tag. -/
def StackPort.find (p : StackPort) (write : Bool) (tag : Nat) : Option Req :=
  p.reqs.find? (fun r => decide (r.write = write ∧ r.tag = some tag))

def StackPort.drop (l : List Req) (write : Bool) (tag : Nat) : List Req :=
  l.filter (fun r => !decide (r.write = write ∧ r.tag = some tag))

/-- An earlier request of the same master with the same ID has not had its response yet: Crossway holds a later response (R272). -/
def State.responseHeld (s : State) (r : Req) : Bool :=
  r.id.isSome && s.allReqs.any (fun e => decide (e.2.master = r.master ∧ e.2.id = r.id ∧ e.2.num < r.num))

/-- A response reaches its master. -/
def State.finish (s : State) (k : Nat) (r : Req) (err : Bool) : State := if err then s.failReq k r true else s.doneReq r

/-- Responses that need be held no longer reach their masters, in order. -/
def State.releaseHeld : Nat → State → State
  | 0, s => s
  | n + 1, s => match s.xb.held.find? (fun e => !s.responseHeld e.2.1) with
    | none => s
    | some e => State.releaseHeld n (({ s with xb := { s.xb with held := s.xb.held.erase e } }).finish e.1 e.2.1 e.2.2)

def State.releaseResponses (s : State) : State := State.releaseHeld s.xb.held.length s

/-- A response: for an outstanding request, for one that has timed out, or for neither (R264, R278, R363). -/
def State.response (s : State) (k : Nat) (write : Bool) (tag : Nat) (err : Bool) : State :=
  let p := s.stackPort k
  if s.stackState k = 3 ∨ s.crossRuns = false then s
  else match p.find write tag with
    | some r =>
      let s1 := s.setStackPort k { p with
        reqs := StackPort.drop p.reqs write tag, rdata := if write then p.rdata else r.data }
      let s2 := if err then s1.countErr k 48 else s1
      (if s2.responseHeld r then { s2 with xb := { s2.xb with held := s2.xb.held ++ [(k, r, err)] } }
      else (s2.finish k r err).releaseResponses).settlePorts
    | none =>
      if p.late.any (fun r => decide (r.write = write ∧ r.tag = some tag)) then
        (s.setStackPort k { p with late := StackPort.drop p.late write tag }).settlePorts
      else s.countErr k 16

/-- STACK_REQUEST_TIMEOUT: the request counts in LATE; it holds its tag, and the bytes it may still reach at the controller, until its
response comes (R263, R264). -/
def State.requestTimeout (s : State) (k : Nat) (write : Bool) (tag : Nat) : State :=
  let p := s.stackPort k
  match p.find write tag with
  | some r =>
    ((((s.setStackPort k { p with reqs := StackPort.drop p.reqs write tag, late := p.late ++ [r] }).countErr k 32).failReq k r
      false).releaseResponses).settlePorts
  | none => s

/-- STACK_CTRL_LOST (R406): STKs_CTRL_OK falls; requests to the stack end by STACK_REQUEST_TIMEOUT. -/
def execStackCtrlLost (k : Fin 12) (s : State) : Host.Outcome State Fault Refusal :=
  .next (s.onPins (fun s => { s with pwr := { s.pwr with ctrlOk := s.pwr.ctrlOk &&& ~~~(BitVec.ofNat 12 (2 ^ k.val)) } }))

/-- PIECE_AGE_EXPIRE (R268): a piece that waits at the target takes priority 15. -/
def execPieceAgeExpire (k : Fin 40) (idx : Nat) (s : State) : Host.Outcome State Fault Refusal :=
  let p := s.stackPort k
  .next (match p.wait[idx]? with
    | some r => s.setStackPort k { p with wait := p.wait.set idx { r with aged := true } }
    | none => s)

/-- RESP_TIMEOUT_RETRY (R242, R256, R264). -/
def State.retry (s : State) (c w : Nat) : State :=
  if !s.crossRuns then s
  else
    let s1 := if (s.winRec c w).retry then s.startCatchup c w else s
    let s2 := if (s1.ctx c).gen.tblRetry.contains w then
        (s1.updGen c (fun g => { g with tblRetry := g.tblRetry.filter (fun v => decide (v ≠ w)) })).tableUpdate c
      else s1
    if (s2.ctx c).gen.saveRetry then
      ((s2.updGen c (fun g => { g with saveRetry := false })).clearTileWords c).replaySettle c
    else s2

def execRespTimeoutRetry (c : Fin 64) (w : Fin 1024) (s : State) : Host.Outcome State Fault Refusal := .next (s.retry c w)

/-! ## Retiring a stack (R276, R277) -/

def planDecode (bs : List Byte) : PlanEntry :=
  let w0 := leNat (bs.take 8)
  let w1 := leNat ((bs.drop 8).take 8)
  let w2 := leNat ((bs.drop 16).take 8)
  let w3 := leNat ((bs.drop 24).take 8)
  ⟨field w0 47 0, field w1 47 0, BitVec.ofNat 12 w2, field w3 15 10, field w3 9 0⟩

def State.planStack (s : State) : Nat := field s.xb.cmd.toNat 63 60
def State.planAddr (s : State) : Nat := field s.xb.cmd.toNat 59 12 / 64 * 64
def State.cmdStack (s : State) : Nat := field s.xb.cmd.toNat 11 8

def State.readPlan (s : State) : List PlanEntry :=
  let m := s.stack s.planStack
  (List.range s.xb.count.toNat).map (fun k => planDecode (m.read (s.planAddr + 32 * k) 32))

def PlanEntry.apply (p : PlanEntry) (e : WinEntry) : WinEntry := { e with base0 := p.base0, base1 := p.base1, stks := p.stks }

/-- An entry of the plan is refused (R277). -/
def State.planBad (s : State) (k : Nat) (p : PlanEntry) : Bool :=
  let e := s.winTable p.ctx p.window
  let n := p.apply e
  !e.valid || n.stackList.isEmpty || n.stackList.any (fun j => decide (j = k) || decide (s.stackState j ≠ 1))
    || decide (p.base0 % 4096 ≠ 0) || (e.aside && decide (p.base1 % 4096 ≠ 0))
    || n.stackList.any (fun j => decide (s.capBytes j < p.base0 + n.regionBytes) || (e.aside && decide (s.capBytes j < p.base1 + n.regionBytes)))

/-- Every VALID window that names the stack has an entry. -/
def State.planCovers (s : State) (k : Nat) (l : List PlanEntry) : Bool :=
  (List.range 64).all (fun c => (List.range 1024).all (fun w =>
    let e := s.winTable c w
    !e.valid || !e.stackList.contains k || l.any (fun p => decide (p.ctx = c ∧ p.window = w))))

/-- A follower of a migrated window has an entry with identical new fields. -/
def State.followersOk (s : State) (l : List PlanEntry) : Bool :=
  (List.range 64).all (fun c => (List.range 1024).all (fun w => match s.follow c w with
    | none => true
    | some t => match l.find? (fun p => decide ((p.ctx, p.window) = t)) with
      | none => true
      | some p => l.any (fun q => decide (q.ctx = c ∧ q.window = w ∧ q.base0 = p.base0 ∧ q.base1 = p.base1 ∧ q.stks = p.stks))))

/-- A window table, the Ledger region, the retain area or a firmware slot lies in the stack (R277, R351). -/
def State.tablesIn (s : State) (k : Nat) : Bool :=
  (List.range 64).any (fun c => decide (field (s.ctx c).cfg.winTab.toNat 63 60 = k))
    || (bitAt s.cfg.retain.toNat 63 && decide (field s.cfg.retain.toNat 59 56 = k))
    || (s.cfg.fwValid && decide (s.cfg.fwStack.toNat = k))
    || (!s.ledgerOff && decide (s.ledgerA = k ∨ s.ledgerB = k))

/-- The stack may be retired: it is ONLINE, or RETIRING with no retirement running, as a migration that stopped with ERROR left it
(R277). -/
def State.retirable (s : State) (k : Nat) : Bool := decide (s.stackState k = 1 ∨ s.stackState k = 2) && s.xb.mig.isNone

/-- Why a retirement is refused, as the entry it names; 0 where the reason concerns no entry of the plan, for which R277 gives no value
(DESIGN CHOICE, log 125). A COUNT of 0 and an entry with empty STACKS are refused too (DESIGN CHOICE, log 125). -/
def State.retireRefused (s : State) (k : Nat) (l : List PlanEntry) : Option Nat :=
  match l.findIdx? (s.planBad k) with
    | some j => some j
    | none => if l.isEmpty || !s.planCovers k l || !s.followersOk l || s.tablesIn k then some 0 else none

/-- The global Steward reads the plan and every window table (R277). -/
def State.askTables (s : State) : State :=
  let a : Ask := { write := false, by_ := .plan }
  let s1 := s.ask a (granRun s.planStack s.planAddr (s.planAddr + 32 * s.xb.count.toNat))
  (List.range 64).foldl (fun t c => let w := t.winAddr c 0
                                    t.ask a (granRun w.1 w.2 (w.2 + 0x8000))) s1

/-- A change of entry w in the table goes out. -/
def State.askEntry (s : State) (c w : Nat) : State :=
  let a := s.winAddr c w
  s.ask { write := true, by_ := .plan } (touch ((List.range 32).map (fun k => (a.1, a.2 + k))))

/-- RESIDENT of an entry in the table, and the cached copy discarded. -/
def State.setResident (s : State) (c w : Nat) (v : Bool) : State :=
  let a := s.winAddr c w
  let b := ((s.stack a.1).get (a.2 + 28)).toNat / 2 * 2 + b2n v
  ((s.setStack a.1 ((s.stack a.1).set (a.2 + 28) (BitVec.ofNat 8 b))).askEntry c w).updCtx c (fun x =>
    { x with win := { x.win with cache := tabSet none x.win.cache w none } })

/-- Granule addresses of both regions, or of region 0 alone (R277 step 2). -/
def WinEntry.granules (e : WinEntry) : List (Nat × Nat) :=
  (if e.aside then [0, 1] else [0]).flatMap (fun r => (List.range (e.limit / 64)).map (fun k => e.xlate r (64 * k)))

/-- The current entry of the plan: RESIDENT is cleared and its copies are asked for, through slice 0's ports (DESIGN CHOICE, log 114). -/
def State.migBegin (s : State) : State := match s.xb.mig with
  | none => s
  | some m => match m.plan[m.entry]? with
    | none => s
    | some p =>
      let s1 := s.setResident p.ctx p.window false
      let e := s1.winTable p.ctx p.window
      let s2 := { s1 with xb := { s1.xb with mig := some { m with since := s.xb.nextNum } } }
      s2.askCopy { write := false, by_ := .migration } (e.granules.zip (p.apply e).granules)

/-- The fields of XBAR_STACK_CMD that a write stores. -/
def cmdMask : Word := 0xFFFFFFFFFFFFFFFE

def State.setCmd (s : State) (v : Word) : State := { s with xb := { s.xb with cmd := v &&& cmdMask } }

/-- The command ends at once with a RESULT (and SERVICE). -/
def State.cmdResult (s : State) (r : BitVec 3) (entry : Nat) : State :=
  ({ s with xb := { s.xb with go := false, result := r, entry := BitVec.ofNat 16 entry } }).service

/-- OP RETIRE with GO. A plan in a RETIRED stack cannot be read, since no request is issued to it (R275), and is refused. -/
def State.retireStack (s : State) : State :=
  let k := s.cmdStack
  let l := s.readPlan
  if !s.retirable k ∨ s.stackState s.planStack = 3 then s.cmdResult 2 0
  else
    let s1 := s.askTables
    match s.retireRefused k l with
    | some j => s1.cmdResult 2 j
    | none =>
      ({ s1 with xb := { s1.xb with
        go := true, done := 0, entry := 0, result := 0, stackState := tabSet 0 s1.xb.stackState k 2, mig := some ⟨k, l, 0, 0⟩ } }).migBegin

/-- A plan that reaches past the capacity its controller presented names an address that does not exist (R261). -/
def State.planAbsent (s : State) : Bool := decide (s.capBytes s.planStack < s.planAddr + 32 * s.xb.count.toNat)

/-- STACK_RETIRE: refused while another retirement runs. -/
def execStackRetire (v : Word) (s : State) : Host.Outcome State Fault Refusal :=
  if !s.serving then .next s
  else if s.xb.go then .next { s with xb := { s.xb with result := 2, entry := 0 } }
  else
    let s1 := s.setCmd v
    if s1.planAbsent ∧ s1.retirable s1.cmdStack then
      .fault (.stackAddressAbsent s1.planStack s1.planAddr)
    else .next s1.retireStack

/-- The regions of one entry in their new layout (R277 step 2). -/
def State.copyRegions (s : State) (old new_ : WinEntry) : State :=
  (if old.aside then [0, 1] else [0]).foldl (fun t r => t.winWrite new_ r 0 (s.winRead old r 0 old.limit)) s

/-- The new BASE0, BASE1 and STACKS in the table (R277 step 3). -/
def State.writePlan (s : State) (p : PlanEntry) : State :=
  let a := s.winAddr p.ctx p.window
  let old := leNat ((s.stack a.1).read (a.2 + 16) 8)
  let w2 := old - field old 59 48 * 2 ^ 48 + p.stks.toNat * 2 ^ 48
  let keep := fun (off base : Nat) =>
    let o := leNat ((s.stack a.1).read (a.2 + off) 8)
    natLe 8 (o / 2 ^ 48 * 2 ^ 48 + base)
  (s.setStack a.1 ((s.stack a.1).write a.2 (keep 0 p.base0 ++ keep 8 p.base1 ++ natLe 8 w2))).askEntry p.ctx p.window

/-- AUTORUN: a context that the migration stopped runs again (R279). -/
def State.autorun (s : State) (c w : Nat) : State :=
  let r := (s.ctx c).run
  if bitAt s.xb.cmd.toNat 3 ∧ r.st = .stopped ∧ r.resWin = some w ∧ r.hostSince = false then s.runCtx c else s

/-- The stack is out of service (R277). No request is issued to it any more, so that those that wait there time out (R264, R275; DEDUCED,
log 137). -/
def State.retired (s : State) (k : Nat) : State :=
  let p := s.stackPort k
  let s1 := ({ s with xb := { s.xb with mig := none, go := false, result := 1, stackState := tabSet 0 s.xb.stackState k 3 } }).setStackPort k
    { p with wait := [], reqs := [], late := [] }
  ((p.reqs ++ p.wait).foldl (fun t r => t.failReq k r false) s1).releaseResponses.settlePorts.service

/-- Every access through the discarded copy of the entry that is being migrated has completed (R48, R277 step 1). -/
def State.migQuiet (s : State) (m : Migration) (p : PlanEntry) : Bool :=
  !s.allReqs.any (fun e => decide (e.2.num < m.since ∧ e.2.window = some (p.ctx, p.window)))

/-- MIGRATION_COPY_DONE: one entry is done; the stack is RETIRED after the last, once no locked sequence holds it. -/
def State.migDone (s : State) : State := match s.xb.mig with
  | none => s
  | some m => match m.plan[m.entry]? with
    | none => s
    | some p =>
      let last := decide (m.plan.length ≤ m.entry + 1)
      if s.outstanding .migration ∨ !s.migQuiet m p ∨ (last ∧ s.xb.locks.any (fun l => decide (l.target = m.stack))) then s
      else
        let e := s.winTable p.ctx p.window
        let s1 := ((s.copyRegions e (p.apply e)).writePlan p).setResident p.ctx p.window true
        let s2 := (s1.syncEffects p.ctx (fun w => decide (w = p.window))).autorun p.ctx p.window
        let s3 := { s2 with xb := { s2.xb with done := s2.xb.done + 1, mig := some { m with entry := m.entry + 1 } } }
        if last then s3.retired m.stack else s3.migBegin

def execMigrationCopyDone (s : State) : Host.Outcome State Fault Refusal := .next s.migDone

/-! ## Returning a stack (R280) -/

/-- A JOINING stack becomes ONLINE once no generation it waits for is open. -/
def State.joinOnline (s : State) (k : Nat) : State :=
  if s.stackState k = 4 ∧ !s.xb.joinWait.any (fun e => decide (e.1 = k)) then
    { s with xb := { s.xb with stackState := tabSet 0 s.xb.stackState k 1 } }
  else s

def execStackJoinOnline (k : Fin 12) (s : State) : Host.Outcome State Fault Refusal := .next (s.joinOnline k)

/-- OP RETURN with GO. -/
def State.returnStack (s : State) : State :=
  let k := s.cmdStack
  if s.stackState k = 3 ∧ !s.stackDead k then
    let wait := ((List.range 64).filter (fun c => (s.ctx c).gen.isOpen)).map (fun c => (k, c))
    let s1 := { s with xb := { s.xb with stackState := tabSet 0 s.xb.stackState k 4, joinWait := s.xb.joinWait ++ wait } }
    (s1.cmdResult 1 0).joinOnline k
  else s.cmdResult 2 0

/-- STACK_RETURN. While the GO of a retirement is set it is refused, where the spec is silent (DESIGN CHOICE, log 125). -/
def execStackReturn (v : Word) (s : State) : Host.Outcome State Fault Refusal :=
  if !s.serving then .next s
  else if s.xb.go then .next { s with xb := { s.xb with result := 2, entry := 0 } }
  else .next (s.setCmd v).returnStack

end Sys2Proof.Machine
end

