-- ==== Sys2Proof/Machine/Link.lean ====
section
/-!
DEFINITION. The link layer of a fabric port: training, lanes and lane maps, acknowledgement, replay, credit (R281 to R288,
R409), and forwarding (R291, R295, R296). What LINK's operating point must serve is here too, since ports wait for it (R325).
-/
namespace Sys2Proof.Machine

/-! ## Operating points (R324 to R326) -/

/-- Bits set in a byte. -/
def ones8 (b : BitVec 8) : Nat := (bitsOf 8 b.toNat).length

/-- R325: an enabled port counts 8 lanes less those retired. -/
def Port.width (x : Port) : Nat := if x.enable then 8 - ones8 x.retire else 0

/-- The lowest operating point that serves so many lanes (R324). -/
def pointFor (lanes : Nat) : Nat := if lanes ≤ 4 then 0 else if lanes ≤ 6 then 1 else 2

/-- LINK_FLOOR. -/
def State.linkFloor (s : State) : Nat :=
  ((List.range s.nPorts).map (fun p => pointFor (s.port p).width)).foldl max 0

/-- Operating point LINK is to reach; while the limiter acts, its floor (R333). -/
def State.linkTarget (s : State) : BitVec 2 :=
  BitVec.ofNat 2 (if s.clk.throttled then s.linkFloor else max s.clk.linkReq.toNat s.linkFloor)

/-- STEWARD has no floor of its own: the limiter takes it to OP0. -/
def State.stwTarget (s : State) : BitVec 2 := if s.clk.throttled then 0 else s.clk.stwReq

/-- A target that differs from the present point starts a transition, one at a time per island (R326). -/
def State.retarget (s : State) : State :=
  let k := s.clk
  let l := match k.linkTo with
    | some t => some t
    | none => if s.linkTarget = k.linkCur then none else some s.linkTarget
  let la := if k.linkTo.isSome then k.linkAge else 0
  let wa := if k.stwTo.isSome then k.stwAge else 0
  let w := match k.stwTo with
    | some t => some t
    | none => if s.stwTarget = k.stwCur then none else some s.stwTarget
  { s with clk := { k with linkTo := l, linkAge := la, stwTo := w, stwAge := wa } }

/-! ## Control frames (R283) -/

def Port.ackNow (x : Port) : Nat := (x.rxSeq - 1).toNat

/-- A frame without SEQ goes out. -/
def Port.ctlBytes (x : Port) (type cvc cred : Nat) (body : List Byte) : List Byte := wire (linkWord type 0 0 x.ackNow cvc cred) body

def Port.sendCtl (x : Port) (type cvc cred : Nat) (body : List Byte) : Port := x.out (x.ctlBytes type cvc cred body)

/-- Receive buffer of one virtual channel in 64 B units. -/
def Port.vcUnits (x : Port) : Nat :=
  let k := x.vcbuf.toNat
  16 * (if 16 ≤ k ∧ k ≤ 128 then k else 64)

/-- An ACK for each channel with buffer to return; one in any case. -/
def Port.sendAck (x : Port) : Port :=
  let y := [0, 1, 2, 3].foldl (fun (y : Port) v =>
    let n := listGet x.rxUsed v
    if n = 0 then y else y.sendCtl 2 v n []) (x.sendCtl 2 0 0 [])
  { y with rxUsed := [0, 0, 0, 0], unacked := 0 }

/-- The channel buffers of a port that has come UP are announced (DESIGN CHOICE, log 30). -/
def Port.announce (x : Port) : Port := [0, 1, 2, 3].foldl (fun (y : Port) v => y.sendCtl 2 v y.vcUnits []) x

/-- Lanes the port can use: trained and not retired; a lane that waits for LINK's floor is left out. -/
def Port.laneMap (x : Port) : BitVec 8 :=
  let m := x.ready &&& ~~~x.retire
  if x.holdLanes then m &&& x.active else m

/-- The lanes that remain in a lane-map exchange: the active ones that can go on, or where there is none those the port can use. -/
def Port.mapLanes (x : Port) : List Nat :=
  let m := x.active &&& x.laneMap
  bitsOf 8 (if m = 0 then x.laneMap else m).toNat

/-- LANEMAP, on the lanes that remain (R287). -/
def Port.sendMap (x : Port) : Port := x.outOn x.mapLanes (x.ctlBytes 6 0 0 (natLe 8 x.laneMap.toNat))

/-! ## DOWN, TRAINING, UP (R288, R395) -/

/-- The port is DOWN: frames inside it are lost, the neighbour's record is no longer valid. -/
def Port.down (x : Port) : Port :=
  { x with
    st := 1, active := 0, nbr := 0, nbrInfo := 0, txSeq := 0, rxSeq := 0, acked := 0xFFFF, txq := [], replay := []
    again := [], replays := 0, nakSent := false, unacked := 0, credit := [0, 0, 0, 0], rxUsed := [0, 0, 0, 0], paused := false, fec := [] }

/-- A port of the build whose island runs and whose tables are intact (R323, R352), from step 3 of power-up on (R415). -/
def State.portLive (s : State) (p : Nat) : Bool :=
  s.ready && decide (p < s.nPorts) && !bitAt s.clk.islReset.toNat 14 && !(s.region 12).broken

/-- The PROBE a port sends on every lane: unique ID, port number, build code. -/
def State.probeOf (s : State) (p : Nat) (x : Port) : Port :=
  x.outEach (x.ctlBytes 5 0 0 (natLe 8 s.fuses.uid.toNat ++ natLe 8 (p + 2 ^ 8 * s.buildCode)))

/-- A port that is DOWN begins training once it may and has a lane. -/
def State.tryTrain (s : State) (p : Nat) : State :=
  let x := s.port p
  if s.portLive p ∧ x.st = 1 ∧ x.enable ∧ !x.holdLanes ∧ x.laneMap ≠ 0 then
    s.setPort p (s.probeOf p { x with st := 2, restart := false })
  else s

/-- A port that leaves service by itself (R286, R287): the event is recorded. -/
def State.portFails (s : State) (p : Nat) : State := (s.updPort p Port.down).globalFault fcLinkDown 4 p 0

/-- The lane-map exchange begins: no new DATA frame until the other end's map is here. A port, UP or TRAINING, that has no lane left goes
DOWN (R287). -/
def State.startMap (s : State) (p : Nat) : State :=
  let x := s.port p
  if x.st = 2 ∧ x.laneMap = 0 then s.updPort p Port.down
  else if x.st ≠ 3 then s
  else if x.laneMap = 0 then s.portFails p
  else if s.tap.pinsHeld then s.setPort p { x with paused := true }
  else s.setPort p { x.sendMap with paused := true }

/-- The operating point that LINK is sure to serve: a lowering under way counts as done (R325, R326). -/
def State.linkPoint (s : State) : Nat := min s.clk.linkCur.toNat (s.clk.linkTo.getD s.clk.linkCur).toNat

/-- What a port does once LINK serves its width: a widening lane rejoins, a port that waited trains (R325). -/
def State.releaseHold (s : State) (p : Nat) : State :=
  let x := s.port p
  if x.holdLanes ∧ s.linkFloor ≤ s.linkPoint then
    let s1 := s.setPort p { x with holdLanes := false }
    if x.st = 3 then s1.startMap p else s1.tryTrain p
  else s

def State.releaseHolds (s : State) : State := (List.range s.nPorts).foldl State.releaseHold s

/-- A write of FAB_PORT_CFG (R287, R288, R325). -/
def State.portWrite (s : State) (p : Nat) (v : Word) : State :=
  if s.nPorts ≤ p then s
  else
    let w := v.toNat
    let old := s.port p
    let retire := BitVec.ofNat 8 (field w 55 48)
    let enable := bitAt w 0
    let restart := bitAt w 1
    let widens := decide (old.retire &&& ~~~retire ≠ 0) || (enable && !old.enable)
    let s1 := s.setPort p { old with retire := retire, vcbuf := BitVec.ofNat 8 (field w 11 4), enable := enable, restart := old.restart || restart }
    let hold := widens && decide (s1.linkPoint < s1.linkFloor)
    let s2 := (s1.updPort p (fun x => { x with holdLanes := enable && (x.holdLanes || hold) })).retarget
    if !enable then s2.updPort p (fun x => { x.down with st := 1 })
    else if restart then (s2.updPort p Port.down).tryTrain p
    else if !old.enable then s2.tryTrain p
    else if retire ≠ old.retire ∧ (retire &&& ~~~old.retire ≠ 0 ∨ !hold) then s2.startMap p
    else s2

def execLaneRetire (p : Fin 18) (v : Word) (s : State) : Host.Outcome State Fault Refusal := .next (s.served (·.portWrite p v))
def execLaneRejoin (p : Fin 18) (v : Word) (s : State) : Host.Outcome State Fault Refusal := .next (s.served (·.portWrite p v))
def execPortRestart (p : Fin 18) (v : Word) (s : State) : Host.Outcome State Fault Refusal := .next (s.served (·.portWrite p v))
def execPortEnableWrite (p : Fin 18) (v : Word) (s : State) : Host.Outcome State Fault Refusal := .next (s.served (·.portWrite p v))

/-- LANE_READY (R409). -/
def State.laneUp (s : State) (p l : Nat) : State :=
  if s.nPorts ≤ p then s
  else
    let s1 := s.updPort p (fun x => { x with ready := x.ready ||| BitVec.ofNat 8 (2 ^ l) })
    let x := s1.port p
    if x.st = 3 then (if x.laneMap = x.active then s1 else s1.startMap p) else s1.tryTrain p

def execLaneReady (p : Fin 18) (l : Fin 8) (s : State) : Host.Outcome State Fault Refusal := .next (s.onPins (·.laneUp p l))

/-- LANE_LOST (R409): the blocks in flight come back by replay; the port runs narrower or goes DOWN (R287). -/
def State.laneDown (s : State) (p l : Nat) : State :=
  let s1 := s.updPort p (fun x => { x with ready := x.ready &&& ~~~(BitVec.ofNat 8 (2 ^ l)), fec := tabSet LaneFec.empty x.fec l LaneFec.empty })
  let x := s1.port p
  if s.nPorts ≤ p then s
  else if x.st = 3 then (if x.active &&& x.ready = x.active then s1 else
    (s1.updPort p (fun y => { y with active := y.active &&& y.ready })).startMap p)
  else if x.st = 2 ∧ x.laneMap = 0 then s1.updPort p Port.down
  else s1

def execLaneLost (p : Fin 18) (l : Fin 8) (s : State) : Host.Outcome State Fault Refusal := .next (s.onPins (·.laneDown p l))

/-! ## What a link header brings (R283, R286) -/

/-- Frames up to `n` are acknowledged, if `n` names a frame of the replay buffer. -/
def Port.ackUpTo (x : Port) (n : BitVec 16) : Port :=
  if x.replay.any (fun f => decide (f.seq = n)) then
    { x with acked := n, replays := 0, replay := x.replay.drop ((n - x.acked).toNat) }
  else x

def Port.addCredit (x : Port) (v n : Nat) : Port := { x with credit := x.credit.set v (listGet x.credit v + n) }

/-- ACK and CRED of a frame that arrives; what they free is sent. -/
def Port.header (x : Port) (h : LinkCtl) : Port := ((x.ackUpTo h.ack).addCredit h.cvc.toNat h.cred.toNat).pump

/-- A frame without SEQ arrives at a port that is UP. -/
def State.ctlFrame (s : State) (p : Nat) (h : LinkCtl) : State := if (s.port p).isUp then s.updPort p (fun x => x.header h) else s

/-! ## PROBE and LANEMAP -/

/-- An activation of the FABRIC region keeps every port paused (R348). -/
def State.fabricPaused (s : State) : Bool := decide (s.cfg.st = 4) && (match s.cfg.act with
  | some a => decide (a.region = 0x10)
  | none => false)

/-- PROBE (R288, R295, R395). -/
def State.probe (s : State) (p : Nat) (uid : Word) (port build : BitVec 8) : State :=
  let s1 := s.tryTrain p
  let x := s1.port p
  let info := BitVec.ofNat 64 (2 ^ 63 + field port.toNat 4 0 * 2 ^ 8 + field build.toNat 3 0)
  if x.st = 2 ∧ x.laneMap = 0 then s1.updPort p Port.down
  else if x.st = 2 then
    s1.setPort p { x with st := 3, active := x.laneMap, nbr := uid, nbrInfo := info, paused := s1.fabricPaused }.announce
  else if x.st = 3 then
    (if uid = x.nbr then s1.setPort p { x with nbrInfo := info } else (s1.portFails p).tryTrain p)
  else s1

def execProbe (p : Fin 18) (uid : LinkMsg Word) (port build : BitVec 8) (s : State) : Host.Outcome State Fault Refusal :=
  .next (s.onPins (fun s => (s.ctlFrame p uid.head).probe p uid.body port build))

/-- PROBE_TIMER (R288); a port that is DOWN and may train tries again (DESIGN CHOICE, log 31). -/
def State.probeTimer (s : State) (p : Nat) : State :=
  let x := s.port p
  if x.st = 1 then s.tryTrain p else if x.st = 2 ∨ x.st = 3 then s.setPort p (s.probeOf p x) else s

def execProbeTimer (p : Fin 18) (s : State) : Host.Outcome State Fault Refusal := .next (s.onPins (·.probeTimer p))

/-- LANEMAP (R287): each end restripes onto the shared lanes and replays, unless an activation keeps the port paused. -/
def State.lanemap (s : State) (p : Nat) (map : BitVec 8) : State :=
  let x := s.port p
  if x.st ≠ 3 then s
  else
    let y := if x.paused then x else x.sendMap
    let shared := x.laneMap &&& map
    if shared = 0 then s.portFails p
    else if s.fabricPaused then s.setPort p { y with active := shared, turn := 0, paused := true }
    else s.setPort p { y with active := shared, turn := 0, paused := false }.resend.pump

def execLanemap (p : Fin 18) (map : LinkMsg (BitVec 8)) (s : State) : Host.Outcome State Fault Refusal :=
  .next (s.onPins (fun s => (s.ctlFrame p map.head).lanemap p map.body))

/-! ## Acknowledgement and replay (R286) -/

/-- ACK. -/
def execAck (p : Fin 18) (ackNo : BitVec 16) (cvc : BitVec 2) (cred : BitVec 12) (s : State) : Host.Outcome State Fault Refusal :=
  .next (s.onPins (·.ctlFrame p ⟨ackNo, cvc, cred⟩))

/-- A replay of every frame from ACK + 1 on: the sixteenth in a row without an advance of ACK takes the port DOWN. -/
def State.replayPort (s : State) (p : Nat) : State :=
  let x := s.port p
  if !x.isUp ∨ x.replay.isEmpty then s
  else if 16 ≤ x.replays + 1 then s.portFails p
  else s.setPort p { x.resend with replays := x.replays + 1 }

/-- NAK: everything up to ACK has arrived, the rest is sent again. -/
def execNak (p : Fin 18) (head : LinkCtl) (s : State) : Host.Outcome State Fault Refusal :=
  .next (s.onPins (fun s => (s.ctlFrame p head).replayPort p))

/-- RETX_EXPIRE. -/
def execRetxExpire (p : Fin 18) (s : State) : Host.Outcome State Fault Refusal := .next (s.onPins (·.replayPort p))

/-- ACK_TIMER. -/
def execAckTimer (p : Fin 18) (s : State) : Host.Outcome State Fault Refusal :=
  .next (s.onPins (fun s => if (s.port p).isUp ∧ 0 < (s.port p).unacked then s.updPort p Port.sendAck else s))

/-- A frame the receiver discards: counted, and a NAK once per gap. -/
def State.discardFrame (s : State) (p : Nat) : State :=
  (s.updPort p (fun x => if x.nakSent then x else { x.sendCtl 3 0 0 [] with nakSent := true })).countDiscard

/-- Whether the bytes of a frame are not those of one that the receiver accepts (R283, R286). -/
def badBytes (x : Port) (bs : List Byte) : Bool :=
  let n := bs.length
  let h := leNat (bs.take 8)
  let type := field h 63 60
  decide (n < 12) || decide (crc32c (bs.take (n - 4)) ≠ leNat (bs.drop (n - 4)))
    || !([1, 2, 3, 5, 6, 7].contains type) || (decide (type = 1) && decide (BitVec.ofNat 16 (field h 57 42) ≠ x.rxSeq))

/-- One FEC codeword of a lane was found uncorrectable (R288, R373). -/
def Port.uncorrectable (x : Port) (l : Fin 8) : Port :=
  let v := field x.laneErr.toNat (8 * l.val + 7) (8 * l.val)
  { x with
    uncorr := if x.uncorr = 0xFFFF then x.uncorr else x.uncorr + 1
    laneErr := if v = 0xFF then x.laneErr else BitVec.ofNat 64 (x.laneErr.toNat + 2 ^ (8 * l.val)) }

/-- The lane of each codeword that no correction mends (R282). -/
def badLanes (words : List (Fin 8 × List Nat)) : List (Fin 8) := (words.filter (fun w => rsUncorrectable w.2)).map (·.1)

/-- BAD_FRAME, with the codewords that came with it (PRESUMED, log 112). A port that is not UP neither counts nor answers the frame (DESIGN
CHOICE, log 147). -/
def State.badFrame (s : State) (p : Nat) (bytes : List Byte) (words : List (Fin 8 × List Nat)) : State :=
  let lanes := badLanes words
  let s1 := if s.nPorts ≤ p ∨ lanes.isEmpty then s else s.updPort p (fun x => lanes.foldl Port.uncorrectable x)
  if (s.port p).isUp ∧ badBytes (s.port p) bytes then s1.discardFrame p else s1

def execBadFrame (p : Fin 18) (raw : RawFrame) (s : State) : Host.Outcome State Fault Refusal :=
  .next (s.onPins (·.badFrame p raw.bytes raw.words))

/-- The receiver takes a DATA frame with the SEQ it expects: the frame's ACK and CRED apply, and every 64th is
acknowledged. -/
def Port.take (x : Port) (f : Frame) : Port :=
  let v := f.vc.toNat
  let y := { (x.ackUpTo f.ack).addCredit f.cvc.toNat f.cred.toNat with
    rxSeq := x.rxSeq + 1, nakSent := false, unacked := x.unacked + 1, rxUsed := x.rxUsed.set v (listGet x.rxUsed v + f.units) }
  (if 64 ≤ y.unacked then y.sendAck else y).pump

/-- A frame that has arrived, from a port or from this node itself: the state once it is taken, or none. -/
def State.take (s : State) (p : Ingress) (f : Frame) : Option State :=
  match p with
  | none => if s.fab.loop.contains f then some { s with fab := { s.fab with loop := s.fab.loop.erase f } } else none
  | some q => if !s.tap.pinsHeld ∧ (s.port q).isUp ∧ f.seq = (s.port q).rxSeq then some (s.updPort q (fun x => x.take f)) else none

/-- A frame out of sequence is discarded (R286); one that cannot have arrived changes nothing. -/
def State.refuseFrame (s : State) (p : Ingress) : State := match p with
  | some q => if !s.tap.pinsHeld ∧ (s.port q).isUp then s.discardFrame q else s
  | none => s

/-! ## Forwarding (R291, R295, R296) -/

/-- A frame that this node is to deliver to itself. -/
def State.isLocal (s : State) (f : Frame) : Bool :=
  if sourceRouted f.hdr.op.toNat then decide (f.hdr.hptr = f.hdr.rlen) else decide (f.hdr.dst = s.fab.addr)

/-- A management frame that this node originates, as the discovery root's Steward does: a source-routed one leaves by PORT[0] with
HPTR = 1, a LEDGER_SET by its destination (R291, R295, R299; DEDUCED, log 108). -/
def State.originate (s : State) (f : Frame) : State :=
  let h := f.hdr
  let mk := s.mkFrame h.op.toNat h.dst h.ctx.toNat h.fgen h.txn h.status.toNat h.fmt.toNat
  let q := h.routePort 0
  if !sourceRouted h.op.toNat then s.emit (mk h.w2 h.w3 f.payload)
  else if s.nPorts ≤ q ∨ !(s.port q).isUp then s.countDiscard
  else s.pushTo q (mk (h.setHptr 1).w2 (h.setHptr 1).w3 f.payload)

/-- A source-routed frame goes on by the port its pointer names. -/
def State.forwardSource (s : State) (f : Frame) : State :=
  let h := f.hdr
  let q := h.routePort h.hptr
  if h.rlen < h.hptr ∨ s.nPorts ≤ q ∨ !(s.port q).isUp then s.countDiscard
  else s.pushTo q { f with hdr := { h.setHptr (h.hptr + 1) with hops := h.hops - 1 } }

/-- FRAME_FORWARD. -/
def State.forward (s : State) (p : Nat) (f : Frame) : State :=
  if s.isLocal f ∨ s.nPorts ≤ p then s
  else if (s.port p).isUp ∧ f.seq = (s.port p).rxSeq then
    let s1 := s.updPort p (fun x => x.take f)
    if f.hdr.hops = 0 then s1.countDiscard
    else if sourceRouted f.hdr.op.toNat then s1.forwardSource f
    else s1.emit { f with hdr := { f.hdr with hops := f.hdr.hops - 1 } }
  else s.refuseFrame (if h : p < 18 then some ⟨p, h⟩ else none)

def execFrameForward (p : Fin 18) (f : Frame) (s : State) : Host.Outcome State Fault Refusal := .next (s.onPins (·.forward p f))

end Sys2Proof.Machine
end

