-- ==== Sys2Proof/Machine/Images.lean ====
section
/-!
DEFINITION. Configuration images and firmware: the loader and its checks (R340 to R345), activation (R346 to R348), the boot
bundle (R349), regions, retained copies and scrubbing (R350 to R352), and Steward firmware (R355, R356, R392).
-/
namespace Sys2Proof.Machine

/-! ## Regions (R338) -/

def isSlice (code : Nat) : Bool := decide (code < 12)
def isFirmware (code : Nat) : Bool := decide (code = 0x40 ∨ code = 0x41)

def regionFrames (code : Nat) : Nat := if code < 12 then 512 else if code = 0x10 then 256 else 128

/-- Regions the build has. -/
def State.hasRegion (s : State) (code : Nat) : Bool := s.isSliceRegion code || decide (code = 0x10) || isFirmware code

/-! ## Headers and frames (R340, R341) -/

def imageMagic : List Byte := [0x4E, 0x4F, 0x55, 0x47, 0x41, 0x54, 0x30, 0x31]

def sub (bs : List Byte) (lo n : Nat) : List Byte := (bs.drop lo).take n

def parseHdr (bs : List Byte) : ImgHdr :=
  { target := BitVec.ofNat 64 (leNat (sub bs 8 8)), region := bs.getD 16 0, frames := leNat (sub bs 20 4)
    length := leNat (sub bs 24 8), gen := BitVec.ofNat 32 (leNat (sub bs 32 4)), keysel := (bs.getD 36 0).toNat
    digest := sub bs 64 48, sigR := leNat (sub bs 112 48), sigS := leNat (sub bs 160 48) }

def allZero (bs : List Byte) : Bool := bs.all (fun b => decide (b = 0))

def reservedZero (bs : List Byte) : Bool :=
  allZero (sub bs 17 3) && allZero (sub bs 37 27) && allZero (sub bs 208 48) && decide (field (leNat (sub bs 8 8)) 23 4 = 0)

/-- Step 1 of R343. -/
def State.hdrShape (s : State) (bs : List Byte) : Bool :=
  let h := parseHdr bs
  let r := h.region.toNat
  decide (bs.take 8 = imageMagic) && s.hasRegion r && decide (1 ≤ h.frames ∧ h.frames ≤ regionFrames r)
    && decide (h.length = 256 + 4096 * h.frames) && reservedZero bs

/-- Step 2: part number, BUILD, MINREV. -/
def State.hdrTarget (s : State) (h : ImgHdr) : Bool :=
  let t := h.target.toNat
  decide (field t 63 32 = 0x7A315E00 ∧ field t 3 0 = s.buildCode ∧ field t 31 24 ≤ s.fuses.rev.toNat)

/-- Step 3: the fused key, unless the fuses or REVOKE, `rv`, revoke it (R392). -/
def State.imageKey (s : State) (rv : BitVec 4) (h : ImgHdr) : Option (Nat × Nat) :=
  if 4 ≤ h.keysel ∨ bitAt s.fuses.revoked.toNat h.keysel ∨ bitAt rv.toNat h.keysel then none
  else (s.fuses.keys.find? (fun k => decide (k.1 = h.keysel))).map (·.2)

/-- Steps 8 and 9. -/
def digestOk (bs : List Byte) : Bool := decide (sha384 (bs.take 64 ++ bs.drop 256) = beNat (parseHdr bs).digest)

def signatureOk (key : Nat × Nat) (bs : List Byte) : Bool :=
  let h := parseHdr bs
  ecdsaOk key (sha384 (bs.take 112)) h.sigR h.sigS

/-! ## Firmware slots (R355) -/

def State.fwSlotAt (s : State) (code copy : Nat) : Nat := s.cfg.fwBase.toNat / 4096 * 4096 + (code - 0x40) * 0x200000 + copy * 0x100000

/-- The image in a slot, as received, if it is intact: steps 1 to 3, 8 and 9 of R343. -/
def State.fwSlot (s : State) (code copy : Nat) : Option (List Byte) :=
  let m := s.stack s.cfg.fwStack.toNat
  let at_ := s.fwSlotAt code copy
  let hb := m.read at_ 256
  let h := parseHdr hb
  if s.hdrShape hb ∧ h.region.toNat = code ∧ s.hdrTarget h then
    match s.imageKey s.cfg.revoke h with
    | none => none
    | some key =>
      let bs := m.read at_ h.length
      if digestOk bs ∧ signatureOk key bs then some bs else none
  else none

/-- Step 4 of R343: the CAUSE, if it fails. -/
def State.hdrStale (s : State) (h : ImgHdr) : Option Nat :=
  let r := h.region.toNat
  if isFirmware r then
    (if !s.cfg.fwValid then some 11
    else if [0, 1].all (fun k => match s.fwSlot r k with
      | some bs => newerGen 32 h.gen.toNat (parseHdr bs).gen.toNat
      | none => true) then none else some 10)
  else if bitAt s.cfg.retain.toNat 63 then none else some 11

/-- Steps 1 to 4 of R343; step 4 not for a boot image (R349). -/
def State.hdrCheck (s : State) (boot : Bool) (bs : List Byte) : Option Nat :=
  let h := parseHdr bs
  if !s.hdrShape bs then some 1
  else if !s.hdrTarget h then some 2
  else if (s.imageKey s.cfg.revoke h).isNone then some 3
  else if boot then none else s.hdrStale h

def frameIndex (fr : List Byte) : Nat := field (leNat (fr.take 4)) 23 0

/-- Steps 5 and 6. -/
def frameCheck (region : Nat) (seen : List Nat) (fr : List Byte) : Option Nat :=
  let a := leNat (fr.take 4)
  if crc32c (fr.take 4092) ≠ leNat (sub fr 4092 4) then some 8
  else if field a 31 24 ≠ region ∨ regionFrames region ≤ frameIndex fr ∨ seen.contains (frameIndex fr) then some 9
  else none

/-- Frames of an image as an indexed table of payloads. -/
def imageFrames (bs : List Byte) : List (Nat × List Byte) :=
  (List.range (parseHdr bs).frames).foldl (fun t k =>
    let fr := sub bs (256 + 4096 * k) 4096
    tabSet [] t (frameIndex fr) (sub fr 4 4088)) []

/-! ## Retained copies (R351, R352) -/

def State.retainAt (s : State) (k copy frame : Nat) : Nat :=
  field s.cfg.retain.toNat 47 0 / 4096 * 4096 + (2 * k + copy) * 0x200000 + 4096 * frame

def State.retainStack (s : State) : Nat := field s.cfg.retain.toNat 59 56

def frameBytes (code frame : Nat) (payload : List Byte) : List Byte := natLe 4 (code * 2 ^ 24 + frame) ++ payload

/-- The golden signature of an active frame. -/
def State.golden (s : State) (k frame : Nat) : Nat :=
  let r := s.region k
  match r.frames.find? (fun e => decide (e.1 = frame)) with
  | some e => crc32c (frameBytes (regionCode k) frame e.2)
  | none => (Config.romSignature (regionCode k) frame).toNat

/-- Whether the retained frame can be used: the ROM's always, otherwise its CRC must recompute and equal the golden
signature. `given` is what the configuration controller holds. -/
def State.retainedOk (s : State) (k frame : Nat) (given : List Byte) : Bool :=
  let r := s.region k
  if r.source = 0 ∨ (r.frames.find? (fun e => decide (e.1 = frame))).isNone then true
  else
    let fr := if r.source = 3 then (s.stack s.retainStack).read (s.retainAt k (b2n r.slot) frame) 4096 else given
    decide (fr.length = 4096) && decide (crc32c (fr.take 4092) = leNat (sub fr 4092 4))
      && decide (leNat (sub fr 4092 4) = s.golden k frame)

/-- Bytes of a retained copy or a firmware slot pass through the global Steward's port. -/
def State.askRetain (s : State) (write : Bool) (k lo n : Nat) : State :=
  s.ask { write := write, by_ := .retain } (granRun k lo (lo + n))

/-- The loader reads a region's retained copy through that port, and its own (R352, R371). -/
def State.readRetained (s : State) (k : Nat) : State :=
  let r := s.region k
  if r.source = 3 then
    r.frames.foldl (fun t e => let a := t.retainAt k (b2n r.slot) e.1
                               (t.askRetain false t.retainStack a 4096).crossSend .retain 29 loaderTarget ((List.range 4096).map (a + ·))) s
  else s

/-! ## Holding a slice (R346, R347) -/

def State.sliceCells (n : Nat) : List Nat := (List.range 64).map (fun p => 64 * n + p)

/-- Tokens of a DIR = 0 queue, from its front on, whose data is at the edge tile. -/
def State.tokensHere (s : State) (g q : Nat) : Nat :=
  ((s.queue g q).fetchedTokens.takeWhile (fun e => !s.tokenAwaited g q e.1 e.2.1 e.2.2)).length

/-- Every channel of the slice is held back; what waits at the steering units stays there, and no more data tokens come to wait (DEDUCED,
log 132). -/
def State.holdSlice (s : State) (n : Nat) : State :=
  let wait := fun (s : State) (g q : Nat) (x : Queue) =>
    if g / 64 = n ∧ x.sd.steer ≠ 0 ∧ x.delivers ∧ s.inLayer x then
      s.updCell g (fun y => let k := y.chan q
                            y.setChan q { k with dataWait := min 16 (s.tokensHere g q) })
    else s
  (s.eachQueue wait).updSlice n (fun x => { x with held := true })

/-- An operation on every channel of a slice that is not idle. -/
def State.eachChan (s : State) (n : Nat) (f : State → Nat → Nat → Chan → State) : State :=
  (State.sliceCells n).foldl (fun t g => (s.cell g).chans.foldl (fun t k => f t g k.1 k.2) t) s

def State.releaseSlice (s : State) (n : Nat) : State :=
  (s.eachChan n (fun t g q _ => t.updCell g (fun y => let k := y.chan q
                                                      y.setChan q { k with dataWait := 0 }))).updSlice n
    (fun x => { x with held := false })

/-- DIR = 1 tokens of the old epoch in a ring of the slice, and those that its blocks hold until they are whole, are discarded: an empty
token keeps the place of each (R346, R348). -/
def State.purgeRings (s : State) (n : Nat) : State :=
  s.eachQueue (fun t g q x =>
    if g / 64 = n ∧ x.dir then
      let here := x.staged ++ (x.blocks.filter Block.whole).flatMap (·.got)
      (t.updQueue g q (fun y => { y with
        staged := y.staged.map (fun _ => [])
        blocks := y.blocks.map (fun b => if b.whole then { b with got := b.got.map (fun _ => []) } else b) })).countPurged
        ((here.filter (fun b => !b.isEmpty)).length)
    else t)

/-- The tokens that wait at the steering units, and those that came from the array and are not written yet, are discarded and counted
(R346, R348). -/
def State.purgeSlice (s : State) (n : Nat) : State :=
  (s.eachChan n (fun t g q k =>
    let t1 := (List.range k.dataWait).foldl (fun t _ => t.updQueue g q Queue.popToken) t
    (t1.updCell g (fun y => let k := y.chan q
                            y.setChan q { k with dataWait := 0, ctl := [] })).countPurged (k.dataWait + k.ctl.length))).purgeRings n

/-- An instruction that engages the slice is under way; one that waits for its queue counts where the rule asks that it complete, not
that it halt (R347). -/
def State.sliceMoving (s : State) (n : Nat) (waits : Bool) : Bool := (List.range 64).any (fun c => match s.head c with
  | some i => decide (i.phase = .moving ∨ i.phase = .moved ∨ (waits ∧ i.phase = .waiting)) && i.cells.any (fun g => decide (g / 64 = n))
  | none => false)

/-- No token waits at a steering unit of the slice. -/
def State.slicePaired (s : State) (n : Nat) : Bool :=
  (State.sliceCells n).all (fun g => (s.cell g).chans.all (fun k => k.2.ctl.isEmpty && decide (k.2.dataWait = 0)))

def State.drained (s : State) (a : Act) : Bool := !s.sliceMoving a.region (!a.purge) && (a.purge || s.slicePaired a.region)

/-! ## Activation -/

/-- A Carousel of the slice uses a Lattice slot that the new image lacks (R346). -/
def State.carouselUses (s : State) (n : Nat) (slots : Nat) : Bool :=
  s.cells.any (fun e => decide (e.1 / 64 = n) && e.2.queues.any (fun q => match q.2.carousel with
    | some k => !bitAt slots k.step
    | none => false))

def loadMode (s : State) : Bool := bitAt s.cfg.load.toNat 6
def loadOnExpire (s : State) : Bool := bitAt s.cfg.load.toNat 7

/-- The drain of a slice begins. -/
def State.beginDrain (s : State) (n : Nat) (service : Bool) : State :=
  let s1 := ({ s with cfg := { s.cfg with
    st := 3, purged := 0, act := some ⟨n, loadMode s, loadOnExpire s, service, !service⟩ } }).holdSlice n
  if loadMode s then s1.purgeSlice n else s1

/-- Every port that is UP pauses as for a lane-map exchange, or resumes with replay (R287, R348). -/
def State.pausePorts (s : State) (v : Bool) : State :=
  (List.range s.nPorts).foldl (fun s p =>
    if v then s.startMap p
    else s.updPort p (fun x => if x.st = 3 then ({ x with paused := false }).resend.pump else x)) s

/-- The activation of the staged image begins (R346, R348, R356). -/
def State.beginActivation (s : State) : State :=
  let r := s.imgRegion
  if isSlice r then
    (if s.carouselUses r (Config.latticeSlots (imageFrames s.cfg.img.bytes)).toNat then s.loadResult 4 12 2 else s.beginDrain r false)
  else
    let s1 := { s with cfg := { s.cfg with st := 4, purged := 0, act := some ⟨r, false, false, false, true⟩ } }
    if r = 0x10 then s1.pausePorts true
    else if s1.cfg.handoverAck ∧ s1.cfg.swap = none then
      { s1 with cfg := { s1.cfg with handoverAck := false, swap := regionIndex r } }
    else s1

/-- ACTIVATE, DISCARD and GO of one write of CFG_LOAD. -/
def loadMask : Word := 0xFFFFFFFFFFFFF0F0

/-- Bytes of the image that are still to come in the request under way (R412). -/
def State.imgNeed (s : State) : Nat := match s.cfg.img.hdr with
  | none => 256 - s.cfg.img.bytes.length
  | some h => h.length - s.cfg.img.bytes.length

def State.imgSrcStack (s : State) : Bool := bitAt s.cfg.load.toNat 4
def State.imgStack (s : State) : Nat := field s.cfg.load.toNat 63 60
def State.imgBase (s : State) : Nat := field s.cfg.load.toNat 59 12 / 64 * 64
def State.imgAddr (s : State) : Nat := s.imgBase + s.cfg.img.bytes.length

/-- CFGP_REQ while data of an image is to come: one request for the header, and one for the frames (R412; DESIGN CHOICE, log 131). -/
def State.imgRequest (s : State) : Option (Nat × Nat) :=
  if s.imgNeed = 0 then none else match s.cfg.img.hdr with
    | none => some (s.imgBase, 256)
    | some h => some (s.imgBase + 256, h.length - 256)

/-- The request for the bytes still to come. -/
def State.imgRest (s : State) : Option (Nat × Nat) := if s.imgNeed = 0 then none else some (s.imgAddr, s.imgNeed)

/-- Whether `n` bytes of the image lie below the stack's capacity (R261). -/
def State.imgPresent (s : State) (n : Nat) : Bool := decide (s.imgAddr + n ≤ s.capBytes s.imgStack)

/-- The next piece of an image in stack memory is asked for, or the configuration port's request stands. -/
def State.imgAsk (s : State) : State :=
  let n := min 4096 s.imgNeed
  if !s.imgSrcStack then { s with cfg := { s.cfg with request := s.imgRequest } }
  else if decide (0 < n) && s.imgPresent n then
    s.ask { write := false, by_ := .image } (granRun s.imgStack s.imgAddr (s.imgAddr + n))
  else s

/-- GO (R342). -/
def State.loadGo (s : State) : State :=
  if s.cfg.st ≠ 0 ∨ s.cfg.bootBusy then
    ({ s with cfg := { s.cfg with result := 3, cause := 13 } }).service
  else ({ s with cfg := { s.cfg with st := 1, go := true, result := 0, cause := 0, lsFrame := 0, img := ⟨[], none, [], 0⟩ } }).imgAsk

/-- DISCARD: for a firmware image, MAGIC of the slot that holds it is cleared (R355). -/
def State.discardImage (s : State) : State :=
  if s.cfg.st ≠ 2 then s
  else
    let r := s.imgRegion
    let bs := s.cfg.img.bytes
    let m := s.stack s.cfg.fwStack.toNat
    let s1 := if isFirmware r then
        (match [0, 1].find? (fun k => decide (m.read (s.fwSlotAt r k) bs.length = bs)) with
        | some k =>
          (s.setStack s.cfg.fwStack.toNat (m.write (s.fwSlotAt r k) (List.replicate 8 0))).ask { write := true, by_ := .retain }
            (touch ((List.range 8).map (fun b => (s.cfg.fwStack.toNat, s.fwSlotAt r k + b))))
        | none => s)
      else s
    ({ s1 with cfg := { s1.cfg with img := ⟨[], none, [], 0⟩ } }).loadResult 5 0 0

/-- A write of CFG_LOAD. -/
def State.loadWrite (s : State) (v : Word) : State :=
  if s.cfg.go ∨ s.cfg.activate then s
  else
    let w := v.toNat
    let s1 := { s with cfg := { s.cfg with load := v &&& loadMask } }
    let n := b2n (bitAt w 0) + b2n (bitAt w 2) + b2n (bitAt w 3)
    if n ≠ 1 then s1
    else if bitAt w 0 then s1.loadGo
    else if bitAt w 3 then s1.discardImage
    else if s1.cfg.st = 2 then ({ s1 with cfg := { s1.cfg with activate := true, result := 0, cause := 0 } }).beginActivation
    else s1

def execImageLoad (v : Word) (s : State) : Host.Outcome State Fault Refusal := .next (s.served (·.loadWrite v))
def execActivate (v : Word) (s : State) : Host.Outcome State Fault Refusal := .next (s.served (·.loadWrite v))
def execDiscard (v : Word) (s : State) : Host.Outcome State Fault Refusal := .next (s.served (·.loadWrite v))

/-! ## Image data (R343, R412) -/

/-- A frame that passed steps 5 and 6: a region image's goes to the retain slot not in use. -/
def State.frameIn (s : State) (h : ImgHdr) (fr : List Byte) : State :=
  let i := frameIndex fr
  let s1 := { s with cfg := { s.cfg with img := { s.cfg.img with seen := s.cfg.img.seen ++ [i] } } }
  match regionIndex h.region.toNat with
  | some k =>
    if isFirmware h.region.toNat then s1
    else
      let copy := 1 - b2n (s.region k).slot
      (s1.setStack s.retainStack ((s1.stack s.retainStack).write (s.retainAt k copy i) fr)).askRetain true s.retainStack
        (s.retainAt k copy i) 4096
  | none => s1

/-- The next frame of the image, if all its bytes are here. -/
def State.frameStep (s : State) : State :=
  match s.cfg.img.hdr with
  | none => s
  | some h =>
    let k := s.cfg.img.seen.length
    if k < h.frames ∧ 256 + 4096 * (k + 1) ≤ s.cfg.img.bytes.length then
      let fr := sub s.cfg.img.bytes (256 + 4096 * k) 4096
      match frameCheck h.region.toNat s.cfg.img.seen fr with
      | some cause => s.rejectLoad cause h.region.toNat k
      | none => s.frameIn h fr
    else s

/-- The header once its 256 bytes are here; a key revoked later does not concern this load (R392). -/
def State.hdrStep (s : State) : State :=
  if s.cfg.img.hdr.isSome ∨ s.cfg.img.bytes.length < 256 then s
  else
    let bs := s.cfg.img.bytes
    let h := parseHdr bs
    match s.hdrCheck false bs with
    | some cause => s.rejectLoad cause h.region.toNat 0
    | none => { s with cfg := { s.cfg with lsRegion := h.region, img := { s.cfg.img with hdr := some h, revoke := s.cfg.revoke } } }

/-- Data of the request under way. -/
def State.imageData (s : State) (data : List Byte) (endMark : Bool) : State :=
  let need := s.imgNeed
  let d := data.take need
  let s1 := ({ s with cfg := { s.cfg with img := { s.cfg.img with bytes := s.cfg.img.bytes ++ d } } }).hdrStep
  let s2 : State := (List.range (d.length / 4096 + 1)).foldl (fun (t : State) _ => if t.cfg.st = 1 then t.frameStep else t) s1
  if s2.cfg.st ≠ 1 then s2
  else if endMark ∧ d.length < need then s2.rejectLoad 6 s2.imgRegion s2.cfg.img.seen.length
  else s2.imgAsk

/-- IMAGE_DATA_RECEIVE: from the configuration port as presented, or the same number of bytes from stack memory once the
port has answered. An address the stack does not have is no address to read (R261). -/
def execImageDataReceive (data : List Byte) (endMark : Bool) (s : State) : Host.Outcome State Fault Refusal :=
  if s.cfg.st ≠ 1 then .next s
  else if s.imgSrcStack then
    let n := min data.length s.imgNeed
    if !s.imgPresent n then .fault (.stackAddressAbsent s.imgStack s.imgAddr)
    else if s.outstanding .image then .next s
    else .next ((s.imageData ((s.stack s.imgStack).read s.imgAddr n) false).crossSend .image 29 loaderTarget
      ((List.range n).map (s.imgAddr + ·)))
  else .next (if s.cfgpTakes then s.imageData data endMark else s)

/-- The slot that would lose under R260. -/
def State.fwLoser (s : State) (code : Nat) : Nat := match s.fwSlot code 0, s.fwSlot code 1 with
  | none, _ => 0
  | _, none => 1
  | some a, some b => if newerGen 32 (parseHdr a).gen.toNat (parseHdr b).gen.toNat then 1 else 0

/-- A firmware slot takes an image as it is. -/
def State.putSlot (s : State) (code copy : Nat) (bs : List Byte) : State :=
  let k := s.cfg.fwStack.toNat
  (s.setStack k ((s.stack k).write (s.fwSlotAt code copy) bs)).askRetain true k (s.fwSlotAt code copy) bs.length

/-- The image is STAGED (R343, R355). -/
def State.stage (s : State) : State :=
  let r := s.imgRegion
  let s1 := if isFirmware r then s.putSlot r (s.fwLoser r) s.cfg.img.bytes else s
  let s2 := s1.loadResult 1 0 2
  if bitAt s2.cfg.load.toNat 5 then s2.beginActivation else s2

/-- SIGNATURE_CHECK_DONE. -/
def State.signatureDone (s : State) : State :=
  match s.cfg.img.hdr with
  | none => s
  | some h =>
    let bs := s.cfg.img.bytes
    let n := s.cfg.img.seen.length
    if s.cfg.st ≠ 1 ∨ bs.length < h.length then s
    else if !digestOk bs then s.rejectLoad 5 h.region.toNat n
    else if (match s.imageKey s.cfg.img.revoke h with
      | some k => signatureOk k bs
      | none => false) then s.stage
    else s.rejectLoad 4 h.region.toNat n

def execSignatureCheckDone (s : State) : Host.Outcome State Fault Refusal := .next s.signatureDone

/-- The boot bundle is over, with its RESULT. -/
def State.bootEnd (s : State) (r : BitVec 2) : State :=
  { s with cfg := { s.cfg with bootBusy := false, bootAlt := false, bootResult := r, request := none } }

/-- CFGP_REQ for a bundle begins with its first header (DESIGN CHOICE, log 131). -/
def State.bootRequest (s : State) (alt : Bool) : Option (Nat × Nat) :=
  some (4096 * (if alt then s.fuses.golden.toNat else s.fuses.primary.toNat), 256)

/-- The configuration controller delivers nothing of a boot bundle: the golden one is read, or every region stays at its default (R349).
No header has come that names a region; REGION reads 0 (DESIGN CHOICE, log 131). -/
def State.bootStall (s : State) : State :=
  let s1 := s.globalFault fcCfgReject 1 0 7
  if s1.cfg.bootAlt then s1.bootEnd 3 else { s1 with cfg := { s1.cfg with bootAlt := true, request := s1.bootRequest true } }

/-- PORT_TIMEOUT_EXPIRE. -/
def State.portTimeout (s : State) : State :=
  if s.cfg.st = 1 ∧ 0 < s.imgNeed then s.rejectLoad 7 s.imgRegion s.cfg.img.seen.length
  else if s.cfg.bootBusy then s.bootStall else s

def execPortTimeoutExpire (s : State) : Host.Outcome State Fault Refusal := .next s.portTimeout

/-! ## Drain and completion -/

/-- DRAIN_COMPLETE. -/
def State.drainComplete (s : State) : State := match s.cfg.act with
  | some a => if s.cfg.st = 3 ∧ s.drained a then { s with cfg := { s.cfg with st := 4 } } else s
  | none => s

def execDrainComplete (s : State) : Host.Outcome State Fault Refusal := .next s.drainComplete

/-- The service command of a slice ends (R369). -/
def State.svcResult (s : State) (n : Nat) (result : BitVec 4) : State :=
  (s.updSlice n (fun x => { x with svcResult := result, svcGo := false })).service

/-- A drain or an activation ends without effect: an image stays STAGED (R347, R348); a re-imaging FAILED. -/
def State.abandonAct (s : State) : State := match s.cfg.act with
  | none => s
  | some a =>
    let s1 := { s with cfg := { s.cfg with act := none } }
    let s2 := if isSlice a.region then s1.releaseSlice a.region else s1
    if a.service then ({ s2 with cfg := { s2.cfg with st := 0 } }).svcResult a.region 3 else s2.loadResult 4 0 2

/-- DRAIN_TIMEOUT. -/
def State.drainTimeout (s : State) : State := match s.cfg.act with
  | some a =>
    if s.cfg.st ≠ 3 ∨ a.purge then s
    else if a.onExpire then ({ s with cfg := { s.cfg with act := some { a with purge := true } } }).purgeSlice a.region
    else s.abandonAct
  | none => s

def execDrainTimeout (s : State) : Host.Outcome State Fault Refusal := .next s.drainTimeout

/-- The epoch advances and its mark leaves on every link of the slice (R346 step 5). -/
def State.advanceEpoch (s : State) (n : Nat) : State :=
  let e := (s.region n).epoch + 1
  (State.sliceCells n).foldl (fun t g => t.updCell g (fun x => { x with lastMark := some e })) (s.updRegion n (fun r => { r with epoch := e }))

/-- Cells fenced because the region had no intact copy are as they were before (R352; DEDUCED, log 75). -/
def Slice.mended (x : Slice) : Slice := match x.broke with
  | some (f, sp, lost) => { x with
      fenced := x.fenced &&& f, lost := x.lost &&& lost, broke := none
      spares := x.spares.zipIdx.map (fun e => if e.1.st = 2 then sp.getD e.2 e.1 else e.1) }
  | none => x

/-- The active frames are written again: none is upset any more. -/
def Region.rewritten (r : Region) : Region := { r with upset := [], mending := [] }

/-- A region takes new frames; what it holds is whole. -/
def State.newFrames (s : State) (k : Nat) (fr : List (Nat × List Byte)) (gen : BitVec 32) (source : BitVec 4) : State :=
  let s1 := s.updRegion k (fun r => { r.rewritten with frames := fr, gen := gen, source := source, broken := false })
  if k < 12 then
    (s1.updSlice k (fun x => { x.mended with lattice := if fr.isEmpty then 1 else Config.latticeSlots fr })).advanceEpoch k
  else if k = 12 then (List.range s.nPorts).foldl State.tryTrain s1
  else s1

/-- The position that a service command re-imaged the slice for changes its serving cell (R371). No context has the cell: new owners have
waited since the command began. -/
def State.swapCell (s : State) (n : Nat) : State :=
  let x := s.slice n
  let p := x.svcCell.toNat
  let y := if x.svcOp = 1 then { x with spares := x.spares.set x.svcSpare.toNat ⟨1, x.svcCell⟩ }
    else match x.spareOf p with
      | some k => { x with spares := x.spares.set k ⟨0, 0⟩ }
      | none => x
  ((s.setSlice n { y with lost := y.lost &&& ~~~(BitVec.ofNat 64 (2 ^ p)) }).emptyCell (64 * n + p)).svcResult n 1

/-- ACTIVATION_COMPLETE (R346 step 5, R348, R371). -/
def State.actComplete (s : State) : State := match s.cfg.act with
  | none => s
  | some a =>
    if s.cfg.st ≠ 4 ∨ isFirmware a.region then s
    else
      let s1 := { s with cfg := { s.cfg with act := none } }
      if a.service then
        ((({ s1 with cfg := { s1.cfg with st := 0 } }.updRegion a.region Region.rewritten).advanceEpoch a.region).releaseSlice a.region).swapCell
          a.region
      else match s.cfg.img.hdr, regionIndex a.region with
        | some h, some k =>
          let s2 := (s1.newFrames k (imageFrames s.cfg.img.bytes) h.gen 3).updRegion k (fun r => { r with slot := !r.slot })
          let s3 := if k < 12 then s2.releaseSlice k else s2.pausePorts false
          ({ s3 with cfg := { s3.cfg with img := ⟨[], none, [], 0⟩ } }).loadResult 2 0 0
        | _, _ => s1

def execActivationComplete (s : State) : Host.Outcome State Fault Refusal := .next s.actComplete

/-! ## Boot bundles (R349) -/

def isEndHdr (bs : List Byte) : Bool :=
  decide (bs.take 8 = imageMagic) && decide (bs.getD 16 0 = 0xFF) && allZero (sub bs 8 8) && allZero (sub bs 17 239) && decide (256 ≤ bs.length)

/-- Steps 5 to 9 over an image; a frame is checked once all of it has come. -/
def State.wholeCheck (s : State) (bs : List Byte) : Option Nat :=
  let h := parseHdr bs
  let fr := (List.range (min h.frames ((bs.length - 256) / 4096))).foldl (fun (r : List Nat × Option Nat) k => match r.2 with
    | some _ => r
    | none =>
      let f := sub bs (256 + 4096 * k) 4096
      (r.1 ++ [frameIndex f], frameCheck h.region.toNat r.1 f)) ([], none)
  match fr.2 with
  | some c => some c
  | none =>
    if bs.length < h.length then some 6
    else if !digestOk bs then some 5
    else match s.imageKey s.cfg.revoke h with
      | some k => if signatureOk k bs then none else some 4
      | none => some 3

/-- The Stewards of a kind, by number: 0 the global one, and n + 1 that of slice n (R353). -/
def State.stewardsOf (s : State) (code : Nat) : List Nat := if code = 0x40 then [0] else (List.range s.nSlices).map (· + 1)

/-- Each Steward of a kind has these frames in its memory. -/
def State.loadStewards (s : State) (code : Nat) (frames : Tab (List Byte)) : State :=
  { s with cfg := { s.cfg with stws := (s.stewardsOf code).foldl (fun t j =>
      tabSet Steward.reset t j { tabGet Steward.reset t j with mem := frames }) s.cfg.stws } }

/-- A byte of a Steward's 512 KiB memory that its image gives; none where the ROM's stands. -/
def Steward.byte (x : Steward) (a : Nat) : Option Byte := if a < 0x80000 then (tabGet [] x.mem (a / 4088))[a % 4088]? else none

/-- Firmware in Steward memory: the payload of frame k at offset k × 4,088, and the ROM's where the image names no frame (R341). -/
def State.setFirmware (s : State) (code : Nat) (bs : List Byte) : State :=
  s.loadStewards code (imageFrames bs)

/-- An accepted boot image is activated at once. -/
def State.bootImage (s : State) (bs : List Byte) (source : BitVec 4) : State :=
  let h := parseHdr bs
  let r := h.region.toNat
  match regionIndex r with
  | none => s
  | some k =>
    if isFirmware r then
      (s.setFirmware r bs).updRegion k (fun x => { x with gen := h.gen, source := source, broken := false })
    else s.newFrames k (imageFrames bs) h.gen source

/-- A region returns to its default. -/
def State.defaultRegion (s : State) (k : Nat) : State :=
  let s1 := s.newFrames k [] 0 0
  if 13 ≤ k then s1.loadStewards (regionCode k) [] else s1

/-- A bundle, image by image: the state, the regions activated, and whether every image was accepted. -/
def State.bundle (source : BitVec 4) : Nat → State → List Byte → List Nat → State × List Nat × Bool
  | 0, s, _, done => (s, done, false)
  | n + 1, s, bs, done =>
    if isEndHdr bs then (s, done, true)
    else
      let h := parseHdr bs
      let r := h.region.toNat
      let reject := fun (cause : Nat) => (s.globalFault fcCfgReject 1 r cause, done, false)
      if bs.length < 256 then reject 6
      else match s.hdrCheck true bs with
        | some c => reject c
        | none => match s.wholeCheck (bs.take h.length) with
          | some c => reject c
          | none => match regionIndex r with
            | none => (s, done, false)
            | some k =>
              if done.contains k then (s, done, false)
              else State.bundle source n (s.bootImage (bs.take h.length) source) (bs.drop h.length) (done ++ [k])

/-- One bundle; on a failure the regions it activated are at their defaults again. -/
def State.tryBundle (s : State) (bs : List Byte) (source : BitVec 4) : State × Bool :=
  let r := State.bundle source 17 s bs []
  if r.2.2 then (r.1, true) else (r.2.1.foldl State.defaultRegion r.1, false)

/-- BOOT_BUNDLE_LOAD; where the primary bundle has stalled, the golden one alone. -/
def State.bootLoad (s : State) (primary golden : List Byte) : State :=
  if !s.ready ∨ !s.cfgpTakes ∨ !s.cfg.bootBusy then s
  else
    let a := if s.cfg.bootAlt then (s, false) else s.tryBundle primary 1
    if a.2 then a.1.bootEnd 1
    else
      let b := a.1.tryBundle golden 2
      b.1.bootEnd (if b.2 then 2 else 3)

def execBootBundleLoad (primary golden : List Byte) (s : State) : Host.Outcome State Fault Refusal := .next (s.bootLoad primary golden)

/-! ## Scrubbing (R352) -/

/-- Physical cells of a slice that serve no position are fenced too (R323, R352, R366). -/
def State.fenceIdle (s : State) (n cause : Nat) : State :=
  let x := s.slice n
  let idle := ((List.range 64).filter (fun p => !bitAt x.fenced.toNat p))
    ++ ((List.range 4).filter (fun k => match x.spares[k]? with
      | some sp => decide (sp.st ≠ 2)
      | none => false)).map (64 + ·)
  let s1 := idle.foldl (fun t p => t.globalFault (fenceCode cause) 2 (68 * n + p) cause) s
  s1.updSlice n (fun x => { x with fenced := 0xFFFFFFFFFFFFFFFF, spares := List.replicate 4 ⟨2, 0⟩ })

/-- Every cell of a slice, the spares among them, is fenced. -/
def State.fenceSlice (s : State) (n cause : Nat) : State := ((State.sliceCells n).foldl (fun t g => t.fenceCell g cause) s).fenceIdle n cause

/-- No intact retained frame: the cells of a slice are fenced, or every port goes DOWN, until an image is activated for it. -/
def State.breakRegion (s : State) (k : Nat) : State :=
  let s1 := s.updRegion k (fun r => { r with broken := true })
  if k < 12 then
    let x := s.slice k
    (s1.fenceSlice k 6).updSlice k (fun y => { y with broke := some (x.fenced, x.spares, x.lost) })
  else (List.range s.nPorts).foldl (fun t p => t.updPort p Port.down) s1

/-- The scrubber's event, unless a use of the frame has logged it (R365). -/
def State.noteScrub (s : State) (k frame : Nat) (used bad : Bool) : State :=
  if !used then s.logUpset k frame bad
  else if bad then { s with cfg := { s.cfg with upBad := true } } else s

/-- An upset frame is rewritten from its retained copy, or the region is broken. -/
def State.mendFrame (s0 : State) (k frame : Nat) (given : List Byte) : State :=
  let r := s0.region k
  let used := r.mending.contains frame
  let rest := fun (l : List Nat) => l.filter (fun f => decide (f ≠ frame))
  let at_ := s0.retainAt k (b2n r.slot) frame
  let s := if r.source = 3 then
      (s0.askRetain false s0.retainStack at_ 4096).crossSend .retain 29 loaderTarget ((List.range 4096).map (at_ + ·)) else s0
  if s.retainedOk k frame given then
    (s.updRegion k (fun r => { r with
      upset := rest r.upset, mending := rest r.mending, upsets := if r.upsets = 0xFFFF then 0xFFFF else r.upsets + 1 })).noteScrub k frame used
      false
  else (s.breakRegion k).noteScrub k frame used true

/-- SCRUB_FRAME: a region that drains, is activated or is in an island reset is skipped. -/
def State.scrub (s : State) (k frame : Nat) (given : List Byte) : State :=
  let busy : Bool := match s.cfg.act with
    | some a => decide (regionIndex a.region = some k)
    | none => false
  let reset := bitAt s.clk.islReset.toNat (if k < 12 then k else 14)
  if !s.hasRegion (regionCode k) ∨ busy ∨ reset ∨ (s.region k).broken ∨ !(s.region k).upset.contains frame then s
  else s.mendFrame k frame given

def execScrubFrame (region : Fin 13) (frame : Fin 512) (retained : List Byte) (s : State) : Host.Outcome State Fault Refusal :=
  .next (s.scrub region frame retained)

/-! ## Steward firmware (R355, R356, R392) -/

/-- CFG_KEYS. -/
def State.keysWrite (s : State) (v : Word) : State :=
  let rev := if s.cfg.keysLock then s.cfg.revoke else v.setWidth 4
  { s with cfg := { s.cfg with revoke := rev, keysLock := s.cfg.keysLock || bitAt v.toNat 63 } }

def execKeysLock (v : Word) (s : State) : Host.Outcome State Fault Refusal := .next (s.served (·.keysWrite v))

/-- The swap that an activation waits for begins (R356 step 3). -/
def State.swapBegin (s : State) : State := match s.cfg.act with
  | some a =>
    if isFirmware a.region ∧ s.cfg.swap = none then
      { s with cfg := { s.cfg with swap := regionIndex a.region, handoverAck := false } }
    else s
  | none => s

/-- CFG_FW. KICK has no state but the watchdog's own time; RESTART ends the hold on the ROM firmware, and counts no reset away (R357). -/
def State.fwWrite (s : State) (v : Word) : State :=
  let w := v.toNat
  let c := s.cfg
  let c1 := if c.fwLock then c else
    { c with fwValid := bitAt w 63, fwStack := BitVec.ofNat 4 (field w 59 56), fwBase := BitVec.ofNat 48 (field w 55 8) }
  let c2 := { c1 with fwLock := c1.fwLock || bitAt w 62, handoverAck := c1.handoverAck || bitAt w 2 }
  let c3 := if bitAt w 1 then { c2 with fwRestart := true, romHold := false, swap := some 15 } else c2
  let s1 := { s with cfg := c3 }
  if c3.handoverAck then s1.swapBegin else s1

def execFwLock (v : Word) (s : State) : Host.Outcome State Fault Refusal := .next (s.served (·.fwWrite v))
def execKick (v : Word) (s : State) : Host.Outcome State Fault Refusal := .next (s.served (·.fwWrite v))
def execHandoverAck (v : Word) (s : State) : Host.Outcome State Fault Refusal := .next (s.served (·.fwWrite v))
def execFwRestart (v : Word) (s : State) : Host.Outcome State Fault Refusal := .next (s.served (·.fwWrite v))

/-- HANDOVER_TIMEOUT. -/
def execHandoverTimeout (s : State) : Host.Outcome State Fault Refusal := .next s.swapBegin

/-- The ROM firmware runs. -/
def State.runRom (s : State) (k : Nat) (broken : Bool) : State :=
  (s.loadStewards (regionCode k) []).updRegion k (fun r =>
    { r with gen := 0, source := 0, slot := false, broken := broken })

/-- A slot runs, and the other is rewritten from it. -/
def State.runSlot (s : State) (k copy : Nat) (bs : List Byte) : State :=
  let code := regionCode k
  ((s.putSlot code (1 - copy) bs).setFirmware code bs).updRegion k (fun r =>
    { r with gen := (parseHdr bs).gen, source := 3, slot := decide (copy = 1), broken := false })

/-- Both slots of a kind are read: the header, and the frames where the header passes. -/
def State.askSlots (s : State) (code : Nat) : State :=
  [0, 1].foldl (fun t k =>
    let h := (t.stack t.cfg.fwStack.toNat).read (t.fwSlotAt code k) 256
    t.askRetain false t.cfg.fwStack.toNat (t.fwSlotAt code k) (if t.hdrShape h then (parseHdr h).length else 256)) s

/-- The Stewards of a kind start at offset 0 of their memories (R353). -/
def State.startPc (s : State) (k : Nat) : State :=
  { s with cfg := { s.cfg with stws := (s.stewardsOf (regionCode k)).foldl (fun t j =>
      tabSet Steward.reset t j { tabGet Steward.reset t j with pc := 0 }) s.cfg.stws } }

/-- The image that a Steward kind runs is chosen and loaded (R355). -/
def State.chooseKind (s0 : State) (k : Nat) : State :=
  let code := regionCode k
  let s := if !s0.cfg.fwValid ∨ s0.cfg.romHold then s0 else s0.askSlots code
  if !s.cfg.fwValid ∨ s.cfg.romHold then s.runRom k false
  else match s.fwSlot code 0, s.fwSlot code 1 with
    | some a, some b =>
      let ga := (parseHdr a).gen.toNat
      let gb := (parseHdr b).gen.toNat
      if newerGen 32 ga gb then s.runSlot k 0 a
      else if newerGen 32 gb ga then s.runSlot k 1 b
      else if a = b then s.runSlot k 0 a
      else (s.runRom k true).globalFault fcDivergent 5 0 0
    | some a, none => s.runSlot k 0 a
    | none, some b => s.runSlot k 1 b
    | none, none => (s.runRom k false).globalFault fcCfgReject 5 0 0

/-- A Steward kind starts. -/
def State.startKind (s : State) (k : Nat) : State := (s.chooseKind k).startPc k

/-- STEWARD_RELOAD_DONE. -/
def State.reloadDone (s : State) : State := match s.cfg.swap with
  | none => s
  | some k =>
    let kinds := if k = 15 then [13, 14] else [k]
    let s1 := kinds.foldl State.startKind s
    let s2 := { s1 with cfg := { s1.cfg with swap := none, fwRestart := false } }
    match s.cfg.act with
    | some a =>
      if isFirmware a.region ∧ kinds.any (fun j => decide (regionIndex a.region = some j)) then
        ({ s2 with cfg := { s2.cfg with act := none, img := ⟨[], none, [], 0⟩ } }).loadResult 2 0 0
      else s2
    | none => s2

def execStewardReloadDone (s : State) : Host.Outcome State Fault Refusal := .next s.reloadDone

end Sys2Proof.Machine
end

