-- ==== Sys2Proof/Machine/Clocks.lean ====
section
/-!
DEFINITION. Clocks and power: the oscillator and its proofing (R317 to R320), islands, their switches and resets (R321 to R323),
operating points (R325, R326), the power limiter and the power states (R333 to R335), power-up and unit reset (R336, R337),
the Steward watchdog (R357).
-/
namespace Sys2Proof.Machine

def State.setClk (s : State) (k : Clk) : State := { s with clk := k }

/-- CLK_FAIL is an event of CONTROL, island 13 (R359). -/
def State.clkFail (s : State) : State := s.globalFault fcClkFail 0 13 0

/-! ## The upstream port (R328, R329) -/

def State.upport (s : State) : Nat := field s.time.cfg.toNat 58 54

/-- A self-timed node. -/
def State.selfTimed (s : State) : Bool := decide (18 ≤ s.upport)

/-! ## Island resets (R323) -/

def State.hasIsland (s : State) (i : Nat) : Bool := decide (i < s.nSlices ∨ (12 ≤ i ∧ i < 16))

def islandBit (i : Nat) : BitVec 16 := BitVec.ofNat 16 (2 ^ i)

def hangFault (code : Nat) : FaultRec := { code := code, stage := 6 }

/-- The loader rewrites the slice's frames from the retained copy. A copy in the configuration controller is whole (DESIGN CHOICE, log 33). -/
def State.rewriteSlice (s : State) (n : Nat) : State :=
  let r := s.region n
  let bad := if r.source = 3 then (r.frames.find? (fun e => !s.retainedOk n e.1 [])).map (·.1) else none
  let s1 := s.readRetained n
  match bad with
  | some f => (s1.updRegion n (fun r => { r with broken := true })).logUpset n f true
  | none => s1.updRegion n Region.rewritten

/-- Reset of SLICE n: every cell is fenced, contexts that use one stop, an activation of the slice ends (R348). -/
def State.resetSlice (s : State) (n : Nat) : State :=
  let s0 := match s.cfg.act with
    | some a => if a.region = n then s.abandonAct else s
    | none => s
  (((s0.fenceSlice n 5).updSlice n (fun x => { x with broke := none })).rewriteSlice n)

/-- An instruction of the context is in decode, validation or data movement. -/
def State.inFlight (s : State) (c : Nat) : Bool :=
  s.active c && (!(s.ctx c).fetched.isEmpty || (match s.head c with
    | some i => decide (i.phase = .ready ∨ i.phase = .moving ∨ i.phase = .moved)
    | none => false))

/-- A stack request that a CROSS reset abandons. What the unit retries or reports after a failed request (R264), it retries or reports
after this; the requests of contexts that stop, of queues that close and of other nodes (R292) lead nowhere (DEDUCED, log 96). -/
def State.abandonReq (s : State) (k : Nat) (r : Req) : State :=
  match r.by_ with
  | .catchup _ _ | .tableWrite _ _ | .replaySave _ | .migration | .plan | .image => s.failReq k r false
  | _ => s

/-- The requests of one port are abandoned; those that went to the controller hold their tags until their late responses (R264). -/
def State.abandonPort (s : State) (k : Nat) : State :=
  let p := s.stackPort k
  (p.reqs ++ p.wait).foldl (fun t r => t.abandonReq k r)
    (s.setStackPort k { p with wait := [], reqs := [], late := p.late ++ p.reqs.filter (fun r => r.tag.isSome) })

/-- Ledger updates in a locked sequence that is lost go back to the queue; a WRITE is lost. -/
def State.dropLocks (s : State) : State :=
  let back := s.xb.locks.filterMap (fun l => match l.job with
    | .ledger r => some r
    | .combine _ | .rewrite _ _ _ => none)
  { s with xb := { s.xb with locks := [] }, fab := { s.fab with ledgerQ := back ++ s.fab.ledgerQ } }

/-- Reset of CROSS: it grants, fetches and decodes nothing until it runs again; responses it holds, and requests of other nodes that its
walker resolves, are lost. -/
def State.resetCross (s : State) : State :=
  let s0 := s.eachQueue (fun t g q _ => t.settleQueue g q)
  let s1 := ((List.range 64).filter s.inFlight).foldl (fun t c => t.outsideStop c (hangFault fcSwitchHang)) s0
  let s2 := (List.range 40).foldl State.abandonPort s1
  let s3 := { s2 with xb := { s2.xb with held := [] }, fab := { s2.fab with resolving := [] } }
  (s3.eachQueue (fun t g q _ => t.closeQueue g q)).dropLocks

/-- Reset of CONTROL: the configuration port's request is withdrawn (R404). -/
def State.resetControl (s : State) : State := { s with cfg := { s.cfg with request := none } }

/-- CONTROL runs again: the configuration port asks for the data still to come (DESIGN CHOICE, log 131). -/
def State.controlBack (s : State) : State :=
  let r := if s.cfg.bootBusy then s.bootRequest s.cfg.bootAlt else if s.cfg.st = 1 ∧ !s.imgSrcStack then s.imgRest else none
  { s with cfg := { s.cfg with request := r } }

/-- Reset of LINK. -/
def State.resetLink (s : State) : State :=
  let s1 := (List.range s.nPorts).foldl (fun t p => t.updPort p Port.down) s
  { s1 with fab := { s1.fab with loop := [], heldWrites := [], resolving := [] } }

/-- Reset of STEWARD: both kinds restart and are reloaded. -/
def State.resetSteward (s : State) : State := { s with cfg := { s.cfg with swap := some 15 } }

/-- An island goes into reset, with the effects of the table of R323. -/
def State.resetIsland (s : State) (i : Nat) : State :=
  let s1 := s.setClk { s.clk with islReset := s.clk.islReset ||| islandBit i }
  if i < 12 then s1.resetSlice i
  else if i = 12 then s1.resetCross
  else if i = 13 then s1.resetControl
  else if i = 14 then s1.resetLink
  else if i = 15 then s1.resetSteward
  else s1

/-! ## Switching (R321 to R323) -/

/-- A clock source runs: the root PLL, the oscillator, or TCLK, whose activity bit tells it (R319, R321; DEDUCED, log 109). -/
def State.sourceRuns (s : State) (src : Nat) : Bool := match src with
  | 0 => !s.clk.pllDown
  | 1 => s.clk.oscRuns
  | _ => decide (s.clk.hist.getD 0 0 = 0xF)

def selOf (sel : BitVec 32) (i : Nat) : Nat := field sel.toNat (2 * i + 1) (2 * i)

def setSel (sel : BitVec 32) (i v : Nat) : BitVec 32 :=
  BitVec.ofNat 32 (sel.toNat - selOf sel i * 2 ^ (2 * i) + v % 4 * 2 ^ (2 * i))

/-- One island's fields of a write of CLK_ISLAND. -/
def State.islandField (s : State) (w i : Nat) : State :=
  if !s.hasIsland i ∨ i = 13 then s
  else
    let v := field w (33 + 2 * i) (32 + 2 * i)
    let reset := bitAt w (16 + i)
    let changes := decide (v ≠ 3 ∧ v ≠ selOf s.clk.sel i)
    let s1 := if changes then s.setClk { s.clk with sel := setSel s.clk.sel i v } else s
    if reset then (s1.setClk { s1.clk with switching := s1.clk.switching ++ [(i, none)] }).resetIsland i
    else if changes then s1.setClk { s1.clk with switching := s1.clk.switching ++ [(i, some (selOf s.clk.sel i))] }
    else s1

/-- A write of CLK_ISLAND; ignored while a switch is in progress. -/
def State.islandWrite (s : State) (v : Word) : State :=
  if !s.clk.switching.isEmpty then s
  else
    let s1 := s.setClk { s.clk with hung := s.clk.hung &&& ~~~(v.setWidth 16) }
    (List.range 16).foldl (fun t i => t.islandField v.toNat i) s1

def execIslandSwitch (v : Word) (s : State) : Host.Outcome State Fault Refusal := .next (s.served (·.islandWrite v))
def execIslandReset (v : Word) (s : State) : Host.Outcome State Fault Refusal := .next (s.served (·.islandWrite v))

def State.dropSwitch (s : State) (i : Nat) : State :=
  s.setClk { s.clk with switching := s.clk.switching.filter (fun e => decide (e.1 ≠ i)) }

/-- The old source of the island's glitch-free switch in progress. -/
def State.switchFrom (s : State) (i : Nat) : Option Nat := match s.clk.switching.find? (fun e => decide (e.1 = i)) with
  | some e => e.2
  | none => none

/-- ISLAND_SWITCH_DONE. The multiplexer waits for both clocks (R321). -/
def State.switchDone (s : State) (i : Nat) : State := match s.switchFrom i with
  | some old => if s.sourceRuns old ∧ s.sourceRuns (selOf s.clk.sel i) then s.dropSwitch i else s
  | none => s

def execIslandSwitchDone (i : Fin 16) (s : State) : Host.Outcome State Fault Refusal := .next (s.switchDone i)

/-- SWITCH_WATCHDOG. -/
def State.switchHang (s : State) (i : Nat) : State :=
  if (s.switchFrom i).isSome then
    let s1 := (s.dropSwitch i).setClk { (s.dropSwitch i).clk with hung := s.clk.hung ||| islandBit i }
    (s1.globalFault fcSwitchHang 0 i 0).resetIsland i
  else s

def execSwitchWatchdog (i : Fin 16) (s : State) : Host.Outcome State Fault Refusal := .next (s.switchHang i)

/-- CROSS runs again: a flip past its flip point goes on with its table update, and what waits for the stack ports goes on. -/
def State.crossBack (s : State) : State :=
  ((List.range 64).foldl (fun t c => (t.updGen c (fun g => { g with tblRetry := [] })).tableUpdate c) s).settlePorts

/-- ISLAND_RESET_RELEASE: the island runs again on its SEL source, if that runs (R322; DEDUCED, log 109). -/
def State.islandRun (s : State) (i : Nat) : State :=
  if bitAt s.clk.islReset.toNat i ∧ s.sourceRuns (selOf s.clk.sel i) then
    let s1 := (s.dropSwitch i).setClk { (s.dropSwitch i).clk with islReset := s.clk.islReset &&& ~~~islandBit i }
    match i with
    | 12 => s1.crossBack
    | 13 => s1.controlBack
    | 14 => (List.range s.nPorts).foldl State.tryTrain s1
    | _ => s1
  else s

def execIslandResetRelease (i : Fin 16) (s : State) : Host.Outcome State Fault Refusal := .next (s.islandRun i)

/-! ## Failure of the oscillator and of the PLL (R320, R322) -/

/-- The oscillator fails: the PLL opens its loop and coasts; a self-timed node's time is no longer valid (R329). -/
def State.oscFail (s : State) : State :=
  let k := s.clk
  let s1 := s.setClk { k with
    oscOk := false, proofed := false, pllLock := false, coast := true, coastAge := 0, coastEv := true, firstDone := false, inBand := 0
    refBand := 0, driftBand := 0 }
  let s2 := if s.selfTimed then { s1 with time := { s1.time with valid := false, validNext := false } } else s1
  s2.clkFail

/-- OSC_EDGE_TIMEOUT: it has stopped; an island that ran on it is reset onto its PLL branch. -/
def State.oscStop (s : State) : State :=
  if s.clk.oscRuns then
    let s1 := (s.setClk { s.clk with oscRuns := false }).oscFail
    ((List.range 16).filter (fun i => s.hasIsland i && decide (selOf s.clk.sel i = 1))).foldl (fun t i =>
      (t.setClk { t.clk with sel := setSel t.clk.sel i 0 }).resetIsland i) s1
  else s

def execOscEdgeTimeout (s : State) : Host.Outcome State Fault Refusal := .next s.oscStop

/-- COAST_END: the loop is closed and the slew back is over; a PLL that has stopped locks no more (R322). A stopped oscillator leaves the
unit coasting (R320). -/
def execCoastEnd (s : State) : Host.Outcome State Fault Refusal :=
  .next (if s.clk.coast ∧ s.clk.proofed ∧ s.clk.oscRuns then s.setClk { s.clk with coast := false, pllLock := !s.clk.pllDown } else s)

/-- PLL_STOP, once the PLL serves (R336): every island of the build is reset onto OSC until the next unit reset, and every context stops
with CLK_FAIL. -/
def State.pllStops (s : State) : State :=
  if s.ready ∧ s.clk.oscRuns ∧ !s.clk.pllDown then
    let s1 := (s.setClk { s.clk with pllStop := true, pllDown := true, pllLock := false, switching := [] }).clkFail
    let s2 := (List.range 64).foldl (fun t c => t.outsideStop c (hangFault fcClkFail)) s1
    ((List.range 16).filter s.hasIsland).foldl (fun t i => (t.setClk { t.clk with sel := setSel t.clk.sel i 1 }).resetIsland i) s2
  else s

def execPllStop (s : State) : Host.Outcome State Fault Refusal := .next s.pllStops

/-- CLOCK_ACTIVITY_MONITOR (R319): one 25 ns interval. -/
def histShift (h : BitVec 4) (edge : Bool) : BitVec 4 := (h <<< 1) ||| (if edge then 1 else 0)

def execClockActivityMonitor (tclk osc pll : Bool) (s : State) : Host.Outcome State Fault Refusal :=
  .next (s.setClk { s.clk with hist := (s.clk.hist.zip [tclk, osc, pll]).map (fun e => histShift e.1 e.2) })

/-! ## Comparison windows (R317, R318, R320) -/

/-- An error within a bound, in steps of 0.25 ppm. -/
def within (e : Int) (bound : Nat) : Bool := decide (e.natAbs ≤ bound)

def ppm200 : Nat := 800
def ppm1000 : Nat := 4000
def ppm2000 : Nat := 8000
def percent06 : Nat := 24000
def ppm40 : Nat := 160

def State.trimSrc (s : State) : Nat := s.clk.trimSrc.toNat

/-- REFCLK is the second clock. -/
def State.usesRef (s : State) : Bool := decide (s.trimSrc = 1) || (decide (s.trimSrc ≠ 2) && s.clk.refOk)

/-- The error against the accepted second clock, if there is one. -/
def State.second (s : State) (w : ClockWindow) : Option Int :=
  if s.usesRef then (if s.clk.refOk then some w.refErr else none)
  else if !s.selfTimed && w.timeSeen then some w.timeErr
  else none

/-- R320's tests on a proofed oscillator. -/
def State.windowFails (s : State) (w : ClockWindow) : Bool :=
  s.clk.proofed && (match s.second w with
    | some e => decide ((if w.long then ppm1000 else ppm2000) ≤ e.natAbs)
    | none => false)

/-- A 250 us window in which REFCLK lies within 0.6 % but not within 200 ppm of a proofed oscillator. -/
def driftWindow (w : ClockWindow) : Bool := w.refEdges && within w.refErr percent06 && !within w.refErr ppm200

/-- REF_OK falls: CLK_FAIL, and a self-timed node whose oscillator stays proofed is in HOLDOVER (R317, R329). Windows of proofing
against REFCLK are no longer consecutive (R318). -/
def State.loseRef (s : State) : State :=
  let s1 := (s.setClk { s.clk with refOk := false, refBand := 0, inBand := if s.usesRef then 0 else s.clk.inBand }).clkFail
  if s.selfTimed ∧ s.clk.proofed then { s1 with time := { s1.time with holdover := true } } else s1

/-- REF_OK rises: HOLDOVER of a self-timed node ends, and VALID returns. -/
def State.gainRef (s : State) : State :=
  let s1 := s.setClk { s.clk with refOk := true, refBand := 0 }
  if s.selfTimed ∧ s.time.holdover then
    { s1 with time := { s1.time with holdover := false, valid := s1.time.valid || s.clk.proofed } }
  else s1

/-- Acceptance of REFCLK at the end of a window (R317). -/
def State.refWindow (s : State) (w : ClockWindow) : State :=
  let k := s.clk
  if k.proofed then
    if k.refOk then (if !w.refEdges ∨ (w.long ∧ !within w.refErr ppm200) then s.loseRef else s)
    else if w.long then
      if w.refEdges ∧ within w.refErr ppm200 then
        (if 4 ≤ k.refBand + 1 then s.gainRef else s.setClk { k with refBand := k.refBand + 1 })
      else s.setClk { k with refBand := 0 }
    else s
  else if w.long then s
  else
    let good := w.refEdges && within w.refErr percent06
    if k.refOk then (if good then s else s.loseRef) else if good then s.gainRef else s

/-- The oscillator is proofed (R318); a self-timed node's time becomes valid against REFCLK (R329). -/
def State.proof (s : State) : State :=
  let ref := s.usesRef
  let s1 := s.setClk { s.clk with proofed := true, oscOk := true, proofAge := 0, inBand := 0, refBand := 0, driftBand := 0 }
  if s.selfTimed ∧ ref then { s1 with time := { s1.time with valid := true, holdover := false } } else s1

/-- ERR: the last measured error, saturating. -/
def errField (e : Int) : BitVec 8 := BitVec.ofInt 8 (max (-128) (min 127 e))

/-- The code that takes the measured error off the trim, to within `b` steps; what the manual gives only within a bound is free. -/
def State.trimTo (s : State) (trim : BitVec 16) (e : Int) (b : Nat) : BitVec 16 :=
  BitVec.ofInt 16 (trim.toInt - e + ((Config.draw s.free % (2 * b + 1) : Nat) : Int) - (b : Nat))

/-- Windows of 250 us in the 10 ms after which the trim loop holds +-2 ppm, and those 2 ppm in steps (R318). -/
def loopWindows : Nat := 40
def ppm2 : Nat := 8

/-- The trim loop on a proofed oscillator: free before 10 ms have passed, within 2 ppm from then on, that is from the end of the fortieth
250 us window since (R318). -/
def State.trimLoop (s : State) (e : Int) : State :=
  let k := s.clk
  let t := if k.proofAge < loopWindows then BitVec.ofNat 16 (Config.draw s.free) else s.trimTo k.trim e ppm2
  (s.setClk { k with trim := t }).bump 1

/-- A 250 us window since proofing is over, whatever clock it measured. -/
def Clk.older (k : Clk) : Clk := { k with proofAge := if k.proofAge < loopWindows then k.proofAge + 1 else k.proofAge }

/-- ERR takes the error that the window measured against the second clock, if there is one. -/
def State.measured (s : State) (w : ClockWindow) : State := match s.second w with
  | some e => s.setClk { s.clk with err := errField e }
  | none => s

/-- The trim's steps at the end of a window (R318). A 250 us window without an accepted second clock interrupts the count. -/
def State.trimWindow (s : State) (w : ClockWindow) : State :=
  match s.second w with
  | none => if w.long then s.setClk { s.clk with inBand := 0 } else s
  | some e =>
    let s1 := s.measured w
    let k := s1.clk
    if s.trimSrc = 3 then s1
    else if k.proofed then s1.trimLoop e
    else if !w.long ∨ k.discard then s1
    else if !k.firstDone then
      (s1.setClk { k with trim := s.trimTo k.trim e ppm40, firstDone := true, inBand := 0 }).bump 1
    else if within e ppm200 then
      (if 4 ≤ k.inBand + 1 then s1.proof else s1.setClk { k with inBand := k.inBand + 1 })
    else s1.setClk { k with inBand := 0 }

/-- REFCLK_WINDOW_END: the oscillator tests first, then acceptance of the reference, then the trim. With a stopped oscillator there is
nothing to compare (R320; DEDUCED, log 109), and none before step 3 (R336; DEDUCED, log 92). -/
def State.windowEnd (s : State) (w : ClockWindow) : State :=
  if !s.ready ∨ !s.clk.oscRuns then s
  else
  let drift := if s.clk.proofed ∧ w.long then (if driftWindow w then s.clk.driftBand + 1 else 0) else s.clk.driftBand
  let s0 := s.setClk { (if w.long ∧ s.clk.proofed then s.clk.older else s.clk) with driftBand := drift }
  if s.windowFails w then (s0.measured w).oscFail
  else if 4 ≤ drift ∧ s.clk.proofed then (s0.measured w).gainRef.oscFail
  else
    let s1 := (s0.refWindow w).trimWindow w
    if w.long then s1.setClk { s1.clk with discard := false } else s1

def execRefclkWindowEnd (w : ClockWindow) (s : State) : Host.Outcome State Fault Refusal := .next (s.windowEnd w)

/-- TRIM_SRC_WRITE (R318). -/
def State.trimWrite (s : State) (v : Word) : State :=
  let t := BitVec.ofNat 2 (field v.toNat 3 2)
  if t = s.clk.trimSrc then s
  else if s.clk.proofed then s.setClk { s.clk with trimSrc := t }
  else s.setClk { s.clk with trimSrc := t, firstDone := false, inBand := 0, discard := true }

def execTrimSrcWrite (v : Word) (s : State) : Host.Outcome State Fault Refusal := .next (s.served (·.trimWrite v))

/-! ## Operating points (R325, R326) -/

def State.dvfsWrite (s : State) (v : Word) : State :=
  (s.setClk { s.clk with linkReq := BitVec.ofNat 2 (field v.toNat 3 2), stwReq := v.setWidth 2 }).retarget

def execDvfsRequest (v : Word) (s : State) : Host.Outcome State Fault Refusal := .next (s.served (·.dvfsWrite v))

/-- A transition goes on for `t` units of 2^-32 ns; 4 us after a lowering began, its frequency is reached and CUR changes (R326). -/
def lowered (cur : BitVec 2) (upTo : Option (BitVec 2)) (age : Nat) : BitVec 2 := match upTo with
  | some t => if t < cur ∧ 4000 * 2 ^ 32 ≤ age then t else cur
  | none => cur

def State.dvfsAge (s : State) (t : Nat) : State :=
  let k := s.clk
  let la := if k.linkTo.isSome then k.linkAge + t else k.linkAge
  let wa := if k.stwTo.isSome then k.stwAge + t else k.stwAge
  s.setClk { k with linkAge := la, stwAge := wa, linkCur := lowered k.linkCur k.linkTo la, stwCur := lowered k.stwCur k.stwTo wa }

/-- DVFS_DONE: CUR is the target; ports that waited for LINK go on. -/
def State.dvfsEnd (s : State) (steward : Bool) : State :=
  if steward then (match s.clk.stwTo with
    | some t => (s.setClk { s.clk with stwCur := t, stwTo := none }).retarget
    | none => s)
  else match s.clk.linkTo with
    | some t => ((s.setClk { s.clk with linkCur := t, linkTo := none }).retarget).releaseHolds
    | none => s

def execDvfsDone (steward : Bool) (s : State) : Host.Outcome State Fault Refusal := .next (s.dvfsEnd steward)

/-! ## Power (R333 to R335) -/

/-- POWER_SAMPLE: averages over the last 10 us, in per mille of each supply's maximum. -/
def State.powerSample (s : State) (dp mem lk : Nat) : State :=
  let k := s.clk
  if !s.ready then s else
  let thr := if k.throttled then (if k.thrTime = 0xFFFFFFFF then k.thrTime else k.thrTime + 1) else k.thrTime
  let s1 := s.setClk { k with thrTime := thr }
  if [dp, mem, lk].any (fun p => decide (1000 < p)) then
    if k.throttled then s1.setClk { s1.clk with duty := if k.duty = 0 then 0 else k.duty - 1 }
    else (s1.setClk { s1.clk with throttled := true }).retarget
  else if k.throttled ∧ [dp, mem, lk].all (fun p => decide (p < Config.restorePerMille)) then
    if k.duty = 0xF then (s1.setClk { s1.clk with throttled := false }).retarget else s1.setClk { s1.clk with duty := k.duty + 1 }
  else s1

def execPowerSample (dp mem lk : Nat) (s : State) : Host.Outcome State Fault Refusal := .next (s.powerSample dp mem lk)

/-- A slice has no instruction in setup or data movement and no open queue (R334). -/
def State.sliceIdle (s : State) (n : Nat) : Bool :=
  s.openQueues.all (fun e => decide (e.1 / 64 ≠ n))
    && (List.range 64).all (fun c => match s.head c with
      | some i => !s.active c || i.cells.all (fun g => decide (g / 64 ≠ n))
      | none => true)

/-- SLICE_AUTO_GATE. -/
def execSliceAutoGate (n : Fin 12) (s : State) : Host.Outcome State Fault Refusal :=
  .next (if n.val < s.nSlices ∧ s.clk.autoIdle ∧ s.sliceIdle n then
    s.setClk { s.clk with gated := s.clk.gated ||| BitVec.ofNat 12 (2 ^ n.val) } else s)

/-- Nothing refuses a PARK request: no context is RUNNING or WAITING, switched out or not, and every queue is CLOSED. -/
def State.parkOk (s : State) : Bool :=
  (List.range 64).all (fun c => decide ((s.ctx c).run.st ≠ .running ∧ (s.ctx c).run.st ≠ .waiting)) && s.openQueues.isEmpty

def State.parkResult (s : State) (r st : BitVec 3) : State :=
  (s.setClk { s.clk with pwResult := r, pwState := st, parkBit := false }).service

/-- One cell of one context is spilled, unless the entry has ended. -/
def State.parkSpill (s : State) (e : Nat × Nat) : State :=
  let (c, g) := e
  if s.clk.pwState ≠ 3 then s
  else if !(s.saveWindow c).resident then s.parkResult 2 0
  else
    let halted := match s.head c with
      | some i => i.halted
      | none => false
    let s1 := s.spillCell c (.switchOut c) g
    let s2 := if halted then s1.spillHeader c (.switchOut c) else s1
    ((s2.updCell g (fun x => { x.emptyAll s.build s2.free with owner := none })).bump 32).updCtx c (fun x =>
      { x with spilled := if x.spilled.contains g then x.spilled else x.spilled ++ [g] })

/-- PARK and UNPARK of a write of CLK_PWR (R335). -/
def State.pwrWrite (s : State) (v : Word) : State :=
  let w := v.toNat
  let s1 := s.setClk { s.clk with autoIdle := bitAt w 3 }
  let s2 := if bitAt w 1 ∧ s1.clk.pwState ≠ 0 then
      s1.setClk { s1.clk with unparkBit := true, pwState := if s1.clk.pwState = 2 then 4 else s1.clk.pwState } else s1
  if bitAt w 0 then
    match s2.clk.pwState.toNat with
    | 0 =>
      if s2.parkOk then
        ((List.range 64).flatMap (fun c => (s2.ownedCells c).map (fun g => (c, g)))).foldl State.parkSpill
          (s2.setClk { s2.clk with parkBit := true, pwState := 3 })
      else s2.parkResult 2 0
    | 2 => if s2.parkOk then s2.parkResult 1 2 else s2.parkResult 2 2
    | 3 => s2
    | _ => s2.parkResult 2 s2.clk.pwState
  else s2

def execPark (v : Word) (s : State) : Host.Outcome State Fault Refusal := .next (s.served (·.pwrWrite v))
def execUnpark (v : Word) (s : State) : Host.Outcome State Fault Refusal := .next (s.served (·.pwrWrite v))

/-- Cell memory and the operand file hold nothing defined after PARK. -/
def State.darkCells (s : State) : State :=
  let dark := fun (g k : Nat) => (⟨[], [⟨0, 0x100000, s.free + 2 * g + k⟩]⟩ : Mem)
  ((List.range s.nCells).foldl (fun t g => t.updCell g (fun x => { x.dropAll with mem := dark g 0, opFile := dark g 1 })) s).bump
    (2 * s.nCells)

/-- PARK_DONE: the spills have been written. A context that has become RUNNING meanwhile ends PARK at once. -/
def State.parkEnd (s : State) : State :=
  if s.clk.pwState = 3 ∧ (List.range 64).all (fun c => !s.outstanding (.switchOut c)) then
    let s1 := (s.darkCells).setClk { s.clk with gated := BitVec.ofNat 12 (2 ^ s.nSlices - 1) }
    (s1.parkResult 1 (if s.clk.unparkBit then 4 else 2)).leavePark
  else s

def execParkDone (s : State) : Host.Outcome State Fault Refusal := .next s.parkEnd

/-- PARK_EXIT_DONE: the exit that UNPARK, or a context that became RUNNING, began is over. -/
def execParkExitDone (s : State) : Host.Outcome State Fault Refusal :=
  .next (if s.clk.pwState = 4 then s.setClk { s.clk with pwState := 0, unparkBit := false, gated := 0 } else s)

/-- CLK_PWR.STATE as it reads: IDLE while every slice is gated. -/
def State.pwrState (s : State) : Nat :=
  let st := s.clk.pwState.toNat
  if st = 0 ∧ (List.range s.nSlices).all (fun n => bitAt s.clk.gated.toNat n) then 1 else st

/-! ## Power-up and reset (R336, R337) -/

/-- Step 3 is reached: the capacities and the boot pin are sampled, the fuses are loaded, and every register holds its reset value,
whatever went before. The levels of the unit's pins stay, and a boot bundle is asked for. -/
def State.powerGood (s : State) (caps : List (BitVec 8)) (bootPin : Bool) : State :=
  let r := State.resetOf s.build s.fuses s.stks s.pending s.free
  let t : State :=
    { r with
      pwr := { s.pwr with step := 3, caps := (List.range s.nSlices).map (fun k => caps.getD k 0), bootPin := bootPin }
      xb := { r.xb with stackState := (List.range s.nSlices).foldl (fun t k =>
        tabSet 0 t k (if caps.getD k 0 = 0 then 0 else 1)) r.xb.stackState }
      fab := { r.fab with ports := s.fab.ports.map (fun e => (e.1, { Port.reset with ready := e.2.ready })) }
      cfg := { r.cfg with bootBusy := bootPin, request := if bootPin then s.bootRequest false else none }
      tap := s.tap }
  (List.range t.nPorts).foldl State.tryTrain t

/-- POWER_UP: the next of steps 1 to 3 is reached; none while the oscillator does not run (R320). -/
def State.powerUp (s : State) (caps : List (BitVec 8)) (bootPin : Bool) : State :=
  if !s.clk.oscRuns then s
  else if s.pwr.step < 2 then { s with pwr := { s.pwr with step := s.pwr.step + 1 } }
  else if s.pwr.step = 2 then s.powerGood caps bootPin
  else s

def execPowerUp (caps : List (BitVec 8)) (bootPin : Bool) (s : State) : Host.Outcome State Fault Refusal :=
  .next (s.powerUp caps bootPin)

/-- The unit after RESET_N (R337): the fuses, the stacks' contents and the test access port stay, the pins are functional. -/
def State.unitReset (s : State) : State :=
  { State.resetOf s.build s.fuses s.stks s.pending s.free with tap := { s.tap with pinsHeld := false } }

/-- UNIT_RESET: pulses shorter than 100 ns are ignored. -/
def execUnitReset (ns : Nat) (s : State) : Host.Outcome State Fault Refusal := .next (if ns < 100 then s else s.unitReset)

/-- WATCHDOG_EXPIRE (R357). Whether three resets fall within 10 s is a free value from the third on: no command carries time. -/
def State.watchdog (s : State) : State :=
  if field s.cfg.timing.toNat 15 0 = 0 then s
  else
    let n := s.cfg.wdogResets + 1
    let rom := s.cfg.romHold || (decide (3 ≤ n) && decide (Config.draw s.free % 2 = 1))
    ((({ s with cfg := { s.cfg with wdogResets := n, romHold := rom } }).bump 1)).resetIsland 15

def execWatchdogExpire (s : State) : Host.Outcome State Fault Refusal := .next s.watchdog

end Sys2Proof.Machine
end

