-- ==== Sys2Proof/Machine/TimeBase.lean ====
section
/-!
DEFINITION. Fabric time (R284, R327 to R332), the tick of a CONTROL cycle, and the beat (R227 to R229).
-/
namespace Sys2Proof.Machine

/-! ## The counter (R327) -/

/-- Increments in units of 2^-32 ns: on the PLL branch, coasting at 400 MHz, on OSC. -/
def incPll : Nat := 4908534053
def incCoast : Nat := 5 * 2 ^ 31
def incOsc : Nat := 10 * 2 ^ 32

/-- The slew down ends within 1 us (R320). -/
def slewDown : Nat := 1000 * 2 ^ 32

/-- Nominal increment of the next CONTROL cycle. Along the slews of coasting the period moves monotonically between its ends; where it
stands there is free (R320, R327, DEDUCED, log 109). -/
def State.increment (s : State) : Nat :=
  let last := max incPll (min incCoast s.time.inc)
  if selOf s.clk.sel 13 = 1 ∨ s.pwr.step < 3 then incOsc
  else if !s.clk.coast then incPll
  else if s.clk.proofed then incPll + Config.draw s.free % (last - incPll + 1)
  else if s.clk.coastAge < slewDown then last + Config.draw s.free % (incCoast - last + 1)
  else incCoast

/-- A correction of at most 200 ppm of an increment; its size is the unit's own (R327). -/
def correction (seed inc : Nat) : Int :=
  let b := inc / 5000
  ((Config.draw seed % (2 * b + 1) : Nat) : Int) - (b : Nat)

/-- The correction follows a change of the increment. -/
def State.adjust (s : State) (inc : Nat) : Int :=
  if s.time.adj = 0 ∨ inc = s.time.inc then s.time.adj else correction (s.free + 1) inc

/-- SYNC_OUT_EN. -/
def State.syncOutOn (s : State) : Bool := bitAt s.time.cfg.toNat 53

/-- SYNC_OUT_PERIOD in the units of TIME_NOW; 0 acts as 1 us (R328). -/
def State.syncPeriod (s : State) : Nat := max 1 (field s.time.cfg.toNat 31 0) * 1000 * 2 ^ 16

/-- TIME_NOW passes from one multiple of SYNC_OUT_PERIOD to another (R332). -/
def State.crosses (s : State) (now : Nat) : Bool := decide (s.time.now.toNat / s.syncPeriod ≠ now / s.syncPeriod)

/-- One CONTROL cycle: fabric time advances, VALID returns after a step (R331), a crossing makes a SYNC_OUT pulse due (R332), coasting
and an operating-point transition go on (R320, R326). -/
def State.tick (s : State) : State :=
  if s.pwr.step = 0 then s
  else
    let inc := s.increment
    let adj := s.adjust inc
    let v := s.time.now.toNat * 2 ^ 16 + s.time.sub.toNat + ((inc : Int) + adj).toNat
    let now := BitVec.ofNat 64 (v / 2 ^ 16)
    let s1 := { s with time := { s.time with
      now := now, sub := BitVec.ofNat 16 v, inc := inc, adj := adj
      valid := s.time.valid || s.time.validNext, validNext := false
      syncDue := s.syncOutOn && s.time.valid && (s.time.syncDue || s.crosses now.toNat) } }
    let s2 := s1.setClk { s.clk with
      coastAge := if s.clk.coast ∧ !s.clk.proofed then min slewDown (s.clk.coastAge + inc) else s.clk.coastAge }
    (s2.dvfsAge inc).bump (if s.clk.coast ∨ inc ≠ s.time.inc then 2 else 0)

/-- A correction of the rate (R327). -/
def State.slew (s : State) : State :=
  ({ s with time := { s.time with adj := correction s.free s.time.inc } }).bump 1

/-- Fabric time steps (R331): VALID reads 0 in that cycle; on a self-timed node with a proofed oscillator it returns. -/
def State.stepTime (s : State) (v : Word) : State :=
  { s with time := { s.time with
    now := v, sub := 0, stepped := true, valid := false, validNext := s.selfTimed && s.clk.proofed } }

/-- SYNC_IN is enabled. -/
def State.syncOn (s : State) : Bool := decide (field s.time.syncIn.toNat 15 0 ≠ 0)

/-- TIME_SET. -/
def State.timeSet (s : State) (v : Word) : State := if s.selfTimed ∧ !s.syncOn then s.stepTime v else s

def execTimeSet (v : Word) (s : State) : Host.Outcome State Fault Refusal := .next (s.served (·.timeSet v))

/-- A write of TIME_SYNC_IN: the next edge steps the counter (R330). -/
def State.syncWrite (s : State) (v : Word) : State := { s with time := { s.time with syncIn := v, armed := true } }

def execSyncInNextWrite (v : Word) (s : State) : Host.Outcome State Fault Refusal := .next (s.served (·.syncWrite v))

/-- Fields of TIME_CFG. -/
def timeCfgMask : Word := 0x07E00000FFFFFFFF

/-- The follower starts over: VALID is clear, the next frame steps (R329). -/
def Time.unlock (t : Time) : Time := { t with valid := false, validNext := false, locks := 0, first := true }

/-- A write of TIME_CFG that includes UPPORT clears VALID; HOLDOVER of a node that was and stays self-timed ends only with the reference's
return (R329). -/
def State.upportWrite (s : State) (v : Word) : State :=
  let s1 := { s with time := { s.time.unlock with cfg := v &&& timeCfgMask, syncDue := false } }
  { s1 with time := { s1.time with holdover := s.time.holdover && s.selfTimed && s1.selfTimed } }

def execUpportWrite (v : Word) (s : State) : Host.Outcome State Fault Refusal := .next (s.served (·.upportWrite v))

/-! ## TIME frames (R284, R329) -/

/-- TIME_FRAME_SEND. -/
def execTimeFrameSend (p : Fin 18) (s : State) : Host.Outcome State Fault Refusal :=
  .next (s.onPins (fun s => if (s.port p).isUp then s.updPort p (fun x => x.sendCtl 7 0 0 (natLe 8 s.time.now.toNat)) else s))

/-- A signed 16.16 value of 32 bits, saturating. -/
def satOffset (e : Int) : BitVec 32 := BitVec.ofInt 32 (max (-(2 ^ 31 : Int)) (min (2 ^ 31 - 1) e))

/-- Nanoseconds in the 48.16 and 16.16 forms. -/
def ns16 (n : Nat) : Nat := n * 2 ^ 16

/-- TIME_FRAME_RECEIVE: offset = frame value + TIME_PORT_DELAYn - local time. -/
def State.timeFrame (s : State) (p : Nat) (v : Word) : State :=
  if s.selfTimed ∨ s.upport ≠ p ∨ !(s.port p).isUp then s
  else
    let at_ := v + (tabGet (0 : BitVec 32) s.time.portDelay p).setWidth 64
    let e := (at_ - s.time.now).toInt
    let s1 := { s with time := { s.time with offset := satOffset e, holdover := false } }
    if !s.time.valid ∧ s.time.first then
      let t := s1.stepTime at_
      { t with time := { t.time with first := false, locks := 0 } }
    else if ns16 1000 < e.natAbs then { s1 with time := s1.time.unlock }
    else if s.time.valid then s1.slew
    else
      let n := if e.natAbs ≤ ns16 50 then s.time.locks + 1 else 0
      let s2 := s1.slew
      { s2 with time := { s2.time with locks := n, valid := decide (16 ≤ n) } }

def execTimeFrameReceive (p : Fin 18) (t : LinkMsg Word) (s : State) : Host.Outcome State Fault Refusal :=
  .next (s.onPins (fun s => (s.ctlFrame p t.head).timeFrame p t.body))

/-- TIME_FRAME_TIMEOUT. -/
def execTimeFrameTimeout (s : State) : Host.Outcome State Fault Refusal :=
  .next (if s.selfTimed then s else { s with time := { s.time with holdover := true } })

/-- HOLDOVER_EXPIRE. -/
def execHoldoverExpire (s : State) : Host.Outcome State Fault Refusal :=
  .next (if s.time.holdover then { s with time := s.time.unlock } else s)

/-! ## SYNC_IN and SYNC_OUT (R330, R332) -/

def State.syncNext (s : State) : Nat := field s.time.syncIn.toNat 63 16

/-- NEXT advances by PERIOD milliseconds. -/
def State.syncAdvance (s : State) : State :=
  let p := field s.time.syncIn.toNat 15 0
  { s with time := { s.time with syncIn := BitVec.ofNat 64 ((s.syncNext + p * 1000000) % 2 ^ 48 * 2 ^ 16 + p) } }

/-- SYNC_IN_EDGE. -/
def State.syncEdge (s : State) (highNs : Nat) : State :=
  if highNs < 20 ∨ !s.selfTimed ∨ !s.syncOn then s
  else
    let at_ := BitVec.ofNat 64 (s.syncNext * 2 ^ 16)
    let e := (at_ - s.time.now).toInt
    let noted := { s with time := { s.time with offset := satOffset e } }
    if !s.time.valid ∨ s.time.armed then
      let t := noted.stepTime at_
      ({ t with time := { t.time with armed := false } }).syncAdvance
    else if e.natAbs ≤ ns16 10000 then noted.slew.syncAdvance
    else { s with time := { s.time with syncRej := if s.time.syncRej = 0xFFFF then 0xFFFF else s.time.syncRej + 1 } }

def execSyncInEdge (highNs : Nat) (s : State) : Host.Outcome State Fault Refusal := .next (s.onPins (·.syncEdge highNs))

/-- SYNC_IN_MISSED. -/
def execSyncInMissed (s : State) : Host.Outcome State Fault Refusal :=
  .next (if s.selfTimed ∧ s.syncOn then s.syncAdvance else s)

/-- SYNC_OUT_PULSE: TIME_NOW has crossed a multiple of SYNC_OUT_PERIOD while SYNC_OUT_EN and VALID are 1 (R332). -/
def execSyncOutPulse (s : State) : Host.Outcome State Fault Refusal :=
  .next (if !s.tap.pinsHeld ∧ s.syncOutOn ∧ s.time.valid ∧ s.time.syncDue then
    { s with time := { s.time with syncDue := false, syncOut := s.time.syncOut + 1 } } else s)

/-! ## The beat (R226 to R229) -/

def State.beatOn (s : State) : Bool := bitAt s.beat.cfg.toNat 63

/-- READY bits that are 0 and count: those of channels whose queue is not CLOSED, on links the build has (R224). -/
def State.readyZero (s : State) (l : List (Nat × BitVec 16)) : List (Nat × BitVec 16) :=
  (l.map (fun e => (e.1, BitVec.ofNat 16 (sumNat ((List.range 16).map (fun q =>
    boolNat (bitAt e.2.toNat q && decide (e.1 < s.nCells) && decide ((s.queue e.1 q).st ≠ .closed)) q)))))).filter
    (fun e => decide (e.2 ≠ 0))

/-- The edge issues (R227, R228). -/
def State.beatIssue (s : State) (heldCycles heldUs : Nat) : State :=
  let b := s.beat
  { s with
    beat := { b with
      count := b.count + 1, held := false, notReady := [], lastMark := b.mark, mark := false
      fill := b.fill && !b.mark
      lastStretch := if heldCycles = 0 then b.lastStretch else BitVec.ofNat 20 (min 0xFFFFF (max 1 heldUs)) }
    glb := { s.glb with beatHeld := satAdd s.glb.beatHeld heldCycles, tHeld := satAdd s.glb.tHeld heldCycles } }

/-- The edge is held; LATE_LINK and LATE_CHAN are those of the moment its stretch began. -/
def State.beatHold (s : State) (l : List (Nat × BitVec 16)) : State :=
  let b := s.beat
  let first := l.headD (0, 0)
  let late := if b.held then b else
    { b with lateLink := BitVec.ofNat 10 first.1, lateChan := BitVec.ofNat 4 ((bitsOf 16 first.2.toNat).headD 0) }
  { s with beat := { late with held := true, notReady := l } }

/-- BEAT_EDGE, with the beat generator in CROSS running, from step 3 of power-up on (R415): the READY bits of the sample, and how long the edge has been held when it issues. -/
def State.beatEdge (s : State) (notReady : List (Nat × BitVec 16)) (heldCycles heldUs : Nat) : State :=
  if !s.ready ∨ !s.beatOn ∨ !s.crossRuns then s
  else
    let l := s.readyZero notReady
    if l.isEmpty then s.beatIssue heldCycles heldUs else s.beatHold l

def execBeatEdge (notReady : List (Nat × BitVec 16)) (heldCycles heldUs : Nat) (s : State) : Host.Outcome State Fault Refusal :=
  .next (s.beatEdge notReady heldCycles heldUs)

/-- BEAT_STRETCH_TIMEOUT. -/
def State.beatTimeout (s : State) : State :=
  if s.beatOn ∧ s.beat.held then
    s.beat.notReady.foldl (fun t e => (bitsOf 16 e.2.toNat).foldl (fun t q => t.faultQueue e.1 q fcTimeout) t) s
  else s

def execBeatStretchTimeout (s : State) : Host.Outcome State Fault Refusal := .next s.beatTimeout

/-- LAYER_ADVANCE. FILL stays set, or is set where the old layer had ended before another queue was open, until the new layer's first
edge (R229). -/
def State.layerNext (s : State) : State :=
  let ds := s.openQueues.map (fun e => (e.2.2.sd.layer - s.beat.layer).toNat)
  if ds.isEmpty ∨ ds.contains 0 then s
  else
    let d := ds.foldl min (ds.headD 0)
    { s with beat := { s.beat with layer := s.beat.layer + BitVec.ofNat 16 d, mark := true, fill := true } }

def execLayerAdvance (s : State) : Host.Outcome State Fault Refusal := .next s.layerNext

end Sys2Proof.Machine
end

