-- ==== Sys2Proof/Machine/Registers.lean ====
section
/-!
DEFINITION. What the control port reads (R381 to R402): every register by its offset, each field from the one place of the state
that holds it. Fields of resources the build lacks read zero (R4, R381); before step 3 of R336 only three registers answer.
-/
namespace Sys2Proof.Machine

/-- Register number of offset `a` in an array of registers at `base`, if it is one of `n`. -/
def regAt (a base n : Nat) : Option Nat := if base ≤ a ∧ a < base + 8 * n then some ((a - base) / 8) else none

/-! ## Global page (R385 to R389) -/

/-- GLB_ID (R386). REV is loaded from fuses at step 3. -/
def State.glbId (s : State) : Nat :=
  0x7A315E00 * 2 ^ 32 + (if s.ready then s.fuses.rev.toNat else 0) * 2 ^ 24
    + (match s.build with
      | .t12 => 0x12
      | .t4 => 0x06) * 2 ^ 16 + s.nSlices * 2 ^ 8 + s.buildCode

/-- GLB_STATUS (R387). -/
def State.glbStatus (s : State) : Nat :=
  boolNat s.time.valid 15 + boolNat s.ready 14 + boolNat s.cfg.bootBusy 13 + boolNat s.clk.coast 12 + boolNat s.clk.throttled 11
    + boolNat (decide (s.pwrState = 2)) 10 + boolNat s.glb.badAcc 1

/-- GLB_STACK_CAP0 and 1 (R388). -/
def State.stackCap (s : State) (k : Nat) : Nat :=
  sumNat ((List.range (if k = 0 then 8 else 4)).map (fun j => (s.pwr.caps.getD (8 * k + j) 0).toNat * 2 ^ (8 * j)))

def State.ctxBits (s : State) (f : Ctx → Bool) : Nat := sumNat ((List.range 64).map (fun c => boolNat (f (s.ctx c)) c))

/-- GLB_TASTER_STATUS (R376): until the first record, zero apart from NO_HISTORY. -/
def State.tasterStatus (s : State) : Nat :=
  if s.glb.tNoHistory then 2
  else s.glb.tSample.toNat * 2 ^ 32 + s.glb.tNext.toNat * 2 ^ 16 + boolNat s.glb.tDropped 2

def State.readGlobal (s : State) (a : Nat) : Nat :=
  match a with
  | 0x0000 => s.glbId
  | 0x0008 => s.glbStatus
  | 0x0010 => s.stackCap 0
  | 0x0018 => s.stackCap 1
  | 0x0020 => s.ctxBits (fun x => decide (x.run.st = .stopped))
  | 0x0028 => s.ctxBits (fun x => bitAt x.irq.toNat 3)
  | 0x0040 => s.glb.fault.toNat
  | 0x0080 => s.glb.msiAddr.toNat
  | 0x0088 => s.glb.msiData.toNat
  | 0x0090 => s.glb.irq.toNat
  | 0x00C0 => s.glb.tasterCfg.toNat
  | 0x00C8 => s.tasterStatus
  | 0x0100 => s.glb.beatHeld.toNat
  | _ => 0

/-! ## Clocks and time page (R390) -/

/-- A source is toggling: an edge in each of the last four intervals (R319). -/
def Clk.active (k : Clk) (i : Nat) : Bool := decide (k.hist.getD i 0 = 0xF)

/-- CLK_STATUS (R319). -/
def State.clkStatus (s : State) : Nat :=
  let k := s.clk
  boolNat k.pllStop 19 + boolNat k.coastEv 18 + boolNat k.coast 15 + boolNat k.proofed 14 + boolNat k.refOk 13 + boolNat k.oscOk 12
    + boolNat k.pllLock 11 + boolNat (k.active 0) 10 + boolNat (k.active 1) 9 + boolNat (k.active 2) 8
    + boolNat (!k.switching.isEmpty) 6 + boolNat (k.linkTo.isSome || k.stwTo.isSome) 5 + boolNat k.throttled 4

/-- CLK_OSC (R318). -/
def State.clkOsc (s : State) : Nat :=
  s.fuses.trim.toNat * 2 ^ 32 + s.clk.trim.toNat * 2 ^ 16 + s.clk.err.toNat * 2 ^ 8 + s.clk.trimSrc.toNat * 4

/-- CLK_ISLAND (R321). -/
def State.clkIsland (s : State) : Nat := s.clk.sel.toNat * 2 ^ 32 + s.clk.islReset.toNat * 2 ^ 16 + s.clk.hung.toNat

/-- CLK_DVFS (R325). -/
def State.clkDvfs (s : State) : Nat :=
  s.linkFloor * 2 ^ 14 + s.clk.linkCur.toNat * 2 ^ 12 + s.clk.stwCur.toNat * 2 ^ 10 + s.clk.linkReq.toNat * 4 + s.clk.stwReq.toNat

/-- CLK_PWR (R333). -/
def State.clkPwr (s : State) : Nat :=
  s.clk.thrTime.toNat * 2 ^ 32 + s.clk.duty.toNat * 2 ^ 28 + s.clk.pwResult.toNat * 2 ^ 9 + s.pwrState * 16
    + boolNat s.clk.autoIdle 3 + boolNat s.clk.unparkBit 1 + boolNat s.clk.parkBit 0

/-- TIME_STATUS (R328). -/
def State.timeStatus (s : State) : Nat :=
  let t := s.time
  t.syncRej.toNat * 2 ^ 48 + boolNat t.stepped 40 + boolNat t.holdover 39 + boolNat t.valid 38 + t.offset.toNat

/-- TIME_BEAT_STATUS (R228). -/
def State.beatStatus (s : State) : Nat :=
  let b := s.beat
  b.lastStretch.toNat * 2 ^ 44 + b.lateLink.toNat * 2 ^ 34 + b.lateChan.toNat * 2 ^ 30 + b.layer.toNat * 2 ^ 14 + boolNat b.fill 1
    + boolNat b.held 0

def State.readTime (s : State) (a : Nat) : Nat :=
  match a with
  | 0x0000 => s.clkStatus
  | 0x0008 => s.clkOsc
  | 0x0010 => s.clkIsland
  | 0x0018 => s.clkDvfs
  | 0x0020 => s.clkPwr
  | 0x0100 => s.time.now.toNat
  | 0x0110 => s.time.cfg.toNat
  | 0x0118 => s.timeStatus
  | 0x0120 => s.time.syncIn.toNat
  | 0x0140 => s.beat.cfg.toNat
  | 0x0148 => s.beatStatus
  | 0x0150 => s.beat.count.toNat
  | _ => match regAt a 0x0200 s.nPorts with
    | some p => (tabGet (0 : BitVec 32) s.time.portDelay p).toNat
    | none => 0

/-! ## Configuration page (R391) -/

/-- CFG_LOAD_STATUS (R344). -/
def State.loadStatus (s : State) : Nat :=
  let c := s.cfg
  c.lsRegion.toNat * 2 ^ 56 + c.lsFrame.toNat * 2 ^ 32 + c.purged.toNat * 2 ^ 16 + c.cause.toNat * 2 ^ 12 + c.result.toNat * 2 ^ 8
    + c.st.toNat

/-- CFG_BOOT (R349). -/
def State.cfgBoot (s : State) : Nat :=
  s.fuses.primary.toNat * 2 ^ 40 + s.fuses.golden.toNat * 2 ^ 16 + s.cfg.bootResult.toNat * 2 + boolNat s.cfg.bootBusy 0

/-- CFG_FW (R355). -/
def State.cfgFw (s : State) : Nat :=
  let c := s.cfg
  boolNat c.fwValid 63 + boolNat c.fwLock 62 + c.fwStack.toNat * 2 ^ 56 + c.fwBase.toNat * 2 ^ 8 + boolNat c.handoverAck 2
    + boolNat c.fwRestart 1

/-- CFG_UPSET_LOG (R352). -/
def State.upsetLog (s : State) : Nat :=
  let c := s.cfg
  c.upCount.toNat * 2 ^ 48 + c.upRegion.toNat * 2 ^ 40 + c.upFrame.toNat * 2 ^ 16 + boolNat c.upBad 1 + boolNat c.upValid 0

/-- CFG_KEYS (R392). -/
def State.cfgKeys (s : State) : Nat :=
  boolNat s.cfg.keysLock 63 + s.fuses.revoked.toNat * 16 + s.cfg.revoke.toNat

/-- CFG_REGIONn (R350). -/
def State.readRegion (s : State) (k : Nat) : Nat :=
  if s.hasRegion (regionCode k) then
    let r := s.region k
    r.gen.toNat * 2 ^ 32 + r.upsets.toNat * 2 ^ 16 + r.source.toNat * 2 ^ 8 + boolNat r.broken 7 + boolNat r.slot 6
      + (if k < 12 then r.epoch.toNat else 0)
  else 0

def State.readConfig (s : State) (a : Nat) : Nat :=
  match a with
  | 0x0000 => s.cfg.load.toNat + boolNat s.cfg.activate 2 + boolNat s.cfg.go 0
  | 0x0008 => s.loadStatus
  | 0x0010 => s.cfg.timing.toNat
  | 0x0018 => s.cfgBoot
  | 0x0020 => s.cfg.retain.toNat
  | 0x0028 => s.cfgFw
  | 0x0030 => s.upsetLog
  | 0x0038 => s.cfgKeys
  | _ => match regAt a 0x0100 15 with
    | some k => s.readRegion k
    | none => 0

/-! ## Crossway page (R393) -/

/-- XBAR_LOCK_STATUS (R274). -/
def State.lockStatus (s : State) : Nat :=
  let x := s.xb
  x.lockCount.toNat * 2 ^ 32 + x.lockTarget.toNat * 2 ^ 8 + x.lockMaster.toNat * 2 + boolNat x.lockValid 0

/-- Which master and which target have a path (R265, R266): T12 numbers for both builds. Masters 0 to 23 are the ports of
slices, 24 to 26 the fabric complex, 27 the descriptor fetcher, 28 the owner-table walker, 29 the global Steward; targets 0 to
11 are stack ports, 12 to 35 the ports of slices, 36 to 38 fabric ports, 39 the configuration loader. -/
def State.hasPath (s : State) (m t : Nat) : Bool :=
  let n := s.nSlices
  let fab := match s.build with
    | .t12 => 3
    | .t4 => 1
  let master := decide (m < 2 * n ∨ (24 ≤ m ∧ m < 24 + fab) ∨ (27 ≤ m ∧ m < 30))
  let toStack := decide (t < n)
  let toSlice := decide (12 ≤ t ∧ t < 12 + 2 * n)
  let toFab := decide (36 ≤ t ∧ t < 36 + fab)
  master && (
    if m < 24 then toStack || (toSlice && decide ((t - 12) / 2 ≠ m / 2 ∧ (t - 12) % 2 = m % 2)) || toFab
    else if m < 27 then toStack || toSlice
    else if m < 29 then toStack
    else toStack || toSlice || decide (t = 39))

/-- XBAR_PRIO_m_k: the stored difference from the reset value, absent paths 0. -/
def State.readPrio (s : State) (m k : Nat) : Nat :=
  let v := tabGet (0 : Word) s.xb.prio (3 * m + k) ^^^ prioReset m
  sumNat ((List.range (if k = 2 then 8 else 16)).map (fun j =>
    if s.hasPath m (16 * k + j) then field v.toNat (4 * j + 3) (4 * j) * 2 ^ (4 * j) else 0))

def State.readCrossway (s : State) (a : Nat) : Nat :=
  let x := s.xb
  match a with
  | 0x0000 => x.cfg.toNat
  | 0x0008 => s.lockStatus
  | 0x0010 => sumNat ((List.range s.nSlices).map (fun k => s.stackState k * 2 ^ (4 * k)))
  | 0x0018 => x.cmd.toNat + boolNat x.go 0
  | 0x0020 => x.count.toNat * 2 ^ 48 + x.done.toNat * 2 ^ 32 + x.entry.toNat * 2 ^ 16 + x.result.toNat
  | _ => match regAt a 0x0100 s.nSlices with
    | some k => (tabGet (0 : Word) x.errs k).toNat
    | none => match regAt a 0x1000 90 with
      | some r => s.readPrio (r / 3) (r % 3)
      | none => 0

/-! ## Fabric page (R394, R395) -/

/-- FAB_NODE (R293). -/
def State.fabNode (s : State) : Nat :=
  boolNat s.fab.addrValid 63 + boolNat s.fab.root 62 + s.fab.addr.toNat * 2 ^ 40 + s.fab.rootAddr.toNat * 2 ^ 20

/-- FAB_PORT_CFGn (R288). -/
def Port.cfgWord (x : Port) : Nat :=
  x.active.toNat * 2 ^ 56 + x.retire.toNat * 2 ^ 48 + x.st.toNat * 2 ^ 44 + x.uncorr.toNat * 2 ^ 16 + x.vcbuf.toNat * 16
    + boolNat x.restart 1 + boolNat x.enable 0

def State.readFabric (s : State) (a : Nat) : Nat :=
  let f := s.fab
  match a with
  | 0x0000 => f.cfg.toNat
  | 0x0008 => s.fuses.uid.toNat
  | 0x0010 => s.fabNode
  | 0x0018 => f.ledger.toNat
  | 0x0020 => f.ledgerSet.toNat
  | 0x0028 => f.ledgerEntry.toNat * 2 ^ 40 + f.ledgerResult.toNat * 4 + boolNat f.ledgerGo 0
  | _ => match regAt a 0x0100 s.nPorts, regAt a 0x0200 s.nPorts, regAt a 0x0300 s.nPorts, regAt a 0x0400 s.nPorts with
    | some p, _, _, _ => (s.port p).cfgWord
    | _, some p, _, _ => (s.port p).laneErr.toNat
    | _, _, some p, _ => (s.port p).nbr.toNat
    | _, _, _, some p => (s.port p).nbrInfo.toNat
    | none, none, none, none => match regAt a 0x0800 64, regAt a 0x8000 4096 with
      | some c, _ => s.grp c
      | _, some i => (tabGet (0 : Word) f.route i).toNat
      | none, none => 0

/-! ## Slice pages (R396) -/

/-- SLC_SPARES (R369). -/
def Slice.sparesWord (x : Slice) : Nat :=
  sumNat (x.spares.zipIdx.map (fun e => (e.1.st.toNat * 2 ^ 14 + (if e.1.st = 1 then e.1.pos.toNat else 0) * 2 ^ 8) * 2 ^ (16 * e.2)))

/-- SLC_SERVICE (R369). -/
def Slice.serviceWord (x : Slice) : Nat :=
  x.svcResult.toNat * 2 ^ 16 + x.svcCell.toNat * 2 ^ 10 + x.svcSpare.toNat * 2 ^ 8 + x.svcOp.toNat * 2 + boolNat x.svcGo 0

def State.readSlice (s : State) (n a : Nat) : Nat :=
  if s.nSlices ≤ n then 0
  else
    let x := s.slice n
    match a with
    | 0x0000 => x.pairTimeout.toNat
    | 0x0008 => x.fenced.toNat
    | 0x0010 => sumNat ((List.range 64).map (fun p => boolNat (x.isDown p) p))
    | 0x0018 => x.sparesWord
    | 0x0020 => x.serviceWord
    | 0x0028 => x.eccCorr.toNat
    | _ => 0

/-! ## Context pages (R397) -/

def RunState.code : RunState → Nat
  | .stopped => 0
  | .idle => 1
  | .running => 2
  | .waiting => 3

/-- CTX_STATUS (R183): CAUSE and FCODE only when STOPPED. -/
def CtxRun.statusWord (r : CtxRun) : Nat :=
  let stopped := decide (r.st = .stopped)
  r.haltCode.toNat * 2 ^ 48 + (if stopped then r.fcode.toNat else 0) * 2 ^ 40 + boolNat r.dbReject 9 + boolNat r.semReject 8
    + boolNat r.resumable 7 + (if stopped then r.cause.toNat else 0) * 16 + r.st.code

/-- CTX_GEN (R248). -/
def CtxGen.word (g : CtxGen) : Nat :=
  g.seq.toNat * 2 ^ 32 + boolNat g.isOpen 7 + boolNat (g.isOpen && g.fab) 6 + boolNat (decide (g.flip ≠ .none)) 5
    + boolNat g.noReplay 4 + g.last.toNat * 4

def State.readCtx (s : State) (c a : Nat) : Nat :=
  let x := s.ctx c
  match a with
  | 0x0008 => x.run.tail.toNat * 2 ^ 32 + x.run.head.toNat
  | 0x0010 => x.run.statusWord
  | 0x0018 => boolNat x.run.stopReq 1
  | 0x0020 => x.cfg.rcpBase.toNat
  | 0x0028 => x.cfg.rcpSize.toNat
  | 0x0030 => x.cfg.winTab.toNat
  | 0x0038 => boolNat x.win.busy 63 + x.win.window.toNat
  | 0x0040 => x.cfg.save.toNat
  | 0x0048 => x.cfg.sched.toNat
  | 0x0050 => x.cfg.waitBound.toNat
  | 0x0060 => x.irq.toNat
  | 0x0080 => x.gen.word
  | 0x0088 => x.gen.result.toNat * 16 + boolNat x.gen.replayBit 1 + boolNat x.gen.abortBit 0
  | 0x0090 => x.gen.replayHead.toNat
  | 0x00C0 => x.flt.f0.toNat
  | 0x00C8 => x.flt.f1.toNat
  | 0x00D0 => x.flt.f2.toNat
  | 0x00D8 => x.flt.f3.toNat
  | 0x00E0 => x.flt.stream.toNat
  | 0x0100 => x.cvtFlags.toNat
  | 0x0108 => x.amax.toNat
  | 0x0110 => x.cfg.srSeed.toNat
  | 0x0140 => x.perfInstr.toNat
  | 0x0148 => x.perfBytes.toNat
  | 0x0150 => x.perfSetup.toNat
  | _ => match regAt a 0x0200 16, regAt a 0x0280 16, regAt a 0x2000 1024 with
    | some b, _, _ => (tabGet (0 : Word) x.cfg.binds b).toNat
    | _, some f, _ => (tabGet (0 : Word) x.cfg.follow f).toNat
    | _, _, some p =>
      let o := (s.bindOf c p).getD (c, p)
      (s.semGet o.1 o.2 true).toNat * 2 ^ 32 + (s.semGet o.1 o.2 false).toNat
    | none, none, none => 0

/-! ## The aperture (R381) -/

/-- Any register at an 8 B-aligned offset. -/
def State.readReg (s : State) (a : Nat) : Nat :=
  if a < 0x100000 then s.readGlobal a
  else if a < 0x200000 then s.readTime (a - 0x100000)
  else if a < 0x300000 then s.readConfig (a - 0x200000)
  else if a < 0x400000 then s.readCrossway (a - 0x300000)
  else if a < 0x800000 then s.readFabric (a - 0x400000)
  else if a < 0xC00000 then s.readSlice ((a - 0x800000) / 0x40000) ((a - 0x800000) % 0x40000)
  else s.readCtx ((a - 0xC00000) / 0x10000) ((a - 0xC00000) % 0x10000)

/-- Registers that answer before step 3 of R336, from step 2 on. -/
def earlyReg (a : Nat) : Bool := [0x000000, 0x000008, 0x100000].contains a

/-- An 8 B read; a port that takes no access answers none. -/
def State.cpRead (s : State) (a : Nat) : Word :=
  if s.cpTakes ∧ (s.ready ∨ earlyReg a) then BitVec.ofNat 64 (s.readReg a) else 0

/-- A read of either size (R382, R410): a 4 B read has the named half in bits [31:0]; any other alignment reads zero and sets BADACC. -/
def State.cpReadSized (s : State) (a : Nat) (size4 : Bool) : State × Word :=
  if !s.cpTakes then (s, 0)
  else if a % (if size4 then 4 else 8) ≠ 0 then ({ s with glb := { s.glb with badAcc := true } }, 0)
  else if size4 then (s, (s.cpRead (a / 8 * 8) >>> (if a % 8 = 4 then 32 else 0)) &&& 0xFFFFFFFF)
  else (s, s.cpRead a)

end Sys2Proof.Machine
end

