-- ==== Sys2Proof/Machine/Ledger.lean ====
section
/-!
DEFINITION. The Ledger (R297 to R301): resolving an entry from its two copies, and updates, which are locked sequences (R273,
R274).
-/
namespace Sys2Proof.Machine

/-! ## Losing copies (R260) -/

/-- The copy in stack k is one that loses. -/
def State.loses (s : State) (k e : Nat) : Bool := match s.ledgerWin e with
  | some w => !s.copyOk k e || decide (s.ledgerCopy k e ≠ w)
  | none => false

def State.writeCopy (s : State) (k e w : Nat) : State :=
  s.setStack k ((s.stack k).write (s.ledgerBase + 8 * e) (natLe 8 w))

def State.writeCopies (s : State) (e w : Nat) : State := (s.writeCopy s.ledgerA e w).writeCopy s.ledgerB e w

/-- Requests of the walker outside an instruction. -/
def State.askTable (s : State) (write : Bool) (bytes : List (Nat × Nat)) : State := s.ask { write := write, by_ := .table } (touch bytes)

/-- The bytes of an entry's two copies, and of the 64 B that hold it. -/
def State.entryBytes (s : State) (e : Nat) : List (Nat × Nat) :=
  [s.ledgerA, s.ledgerB].flatMap (fun k => (List.range 8).map (fun j => (k, s.ledgerBase + 8 * e + j)))

def State.lineBytes (s : State) (e : Nat) : List (Nat × Nat) :=
  [s.ledgerA, s.ledgerB].flatMap (fun k => (List.range 64).map (fun j => (k, s.ledgerLine e + j)))

/-! ## The walker (R300) -/

/-- The walker is free to lock a stack of the Ledger. -/
def State.walkerFree (s : State) (k : Nat) : Bool := s.crossRuns && !s.xb.locks.any (fun l => decide (l.master = 28 ∨ l.target = k))

/-- Copies that lose among some 64 B lines: a stack, and at most 16 lines, one piece each (R273). -/
def State.nextRewrite (s : State) (lines : List Nat) : Option (Nat × List Nat) :=
  [s.ledgerA, s.ledgerB].findSome? (fun k =>
    let l := lines.filter (fun n => (List.range 8).any (fun j => s.loses k (8 * n + j)))
    if l.isEmpty then none else some (k, l.take 16))

/-- A rewrite begins: a locked sequence of the walker, for an instruction or for a request of another node. -/
def State.lockRewrite (s : State) (k : Nat) (lines : List Nat) (who : Option (Nat × BitVec 32))
    (req : Option Arrival) : State :=
  { s with xb := { s.xb with locks := s.xb.locks ++ [⟨28, k, .rewrite lines who req⟩] } }

/-- Its closing piece has come: each losing copy is that of the winner. -/
def State.rewriteLines (s : State) (k : Nat) (lines : List Nat) : State :=
  let es := lines.flatMap (fun n => (List.range 8).map (fun j => 8 * n + j))
  let s1 := es.foldl (fun t e => if s.loses k e then t.writeCopy k e ((s.ledgerWin e).getD 0) else t) s
  let at_ := lines.map (fun n => (k, s.ledgerLine (8 * n)))
  let s2 := { s1 with fab := { s1.fab with ledgerBad := s1.fab.ledgerBad.filter (fun b => !at_.contains b) } }
  s2.askTable true (at_.flatMap (fun a => (List.range 64).map (fun j => (a.1, a.2 + j))))

/-- Entries that one slice's owner cache holds (R300). -/
def cacheSize : Nat := 65536

/-- Entries join a slice's owner cache; a full cache gives up its oldest (DESIGN CHOICE, log 114). -/
def State.fillCache (s : State) (slice : Nat) (es : List Nat) : State :=
  let l := s.fab.ownerCache
  let mine := l.filter (fun k => decide (k.1 = slice)) ++ (es.filter (fun e => !l.contains (slice, e))).map (fun e => (slice, e))
  { s with fab := { s.fab with
    ownerCache := l.filter (fun k => decide (k.1 ≠ slice)) ++ mine.drop (mine.length - cacheSize) } }

/-- The 64 B lines of an instruction's entries that the owner cache of an engaged slice lacks. -/
def State.missedLines (s : State) (i : Cur) : List (Nat × Nat) :=
  if s.ledgerOff then []
  else i.slices.flatMap (fun sl => (((s.ledgerEntries i).filter (fun e => !s.fab.ownerCache.contains (sl, e))).map (· / 8)).eraseDups.map
    (fun n => (sl, n)))

/-- The walker has resolved them: what is not DIVERGENT is cached. -/
def State.walkAll (s : State) (i : Cur) : State := (s.missedLines i).foldl (fun t l =>
  t.fillCache l.1 (((List.range 8).map (fun j => 8 * l.2 + j)).filter (fun e => (s.ledgerWin e).isSome))) s

/-- An entry is resolved for a request of another node, which no slice needs: both copies are read before the request is served (DEDUCED,
log 40). -/
def State.askResolve (s : State) (a : Arrival) : State :=
  State.ask { s with fab := { s.fab with resolving := s.fab.resolving ++ [a] } } { write := false, by_ := .resolve a }
    (touch (s.lineBytes a.frame.hdr.entry))

/-! ## Updates (R299) -/

/-- A context of the node has an open fabric-wide generation. -/
def State.fabGenOpen (s : State) : Bool := (List.range 64).any (fun c => (s.ctx c).gen.isOpen && (s.ctx c).gen.fab)

/-- The new value of an entry: GEN one newer than the winner's, or than the first copy's of a DIVERGENT entry. -/
def State.ledgerNew (s : State) (e : Nat) (v : Word) : Nat :=
  let old := match s.ledgerWin e with
    | some w => w
    | none => s.ledgerCopy s.ledgerA e
  let w := v.toNat
  w - field w 62 55 * 2 ^ 55 + (field old 62 55 + 1) % 256 * 2 ^ 55

/-- The closing piece has come: both copies hold the new value, and no owner cache the old one. -/
def State.ledgerWrite (s : State) (r : LedgerReq) : State :=
  let s1 := (s.writeCopies r.entry (s.ledgerNew r.entry r.word)).askTable true (s.entryBytes r.entry)
  { s1 with fab := { s1.fab with ownerCache := s1.fab.ownerCache.filter (fun k => decide (k.2 ≠ r.entry)) } }

/-- RESULT of an update that is applied: DIVERGENT where the entry was, which the update clears (R299; DEDUCED, log 126). -/
def State.ledgerOutcome (s : State) (e : Nat) : BitVec 2 := if (s.ledgerWin e).isNone then 3 else 1

/-- The update is over: GO clears with a RESULT, or LEDGER_SET is answered. -/
def State.ledgerEnd (s : State) (r : LedgerReq) (result : BitVec 2) (status : Nat) : State :=
  let s1 := if r.fromCmd then { s with fab := { s.fab with ledgerGo := false, ledgerResult := result } } else s
  match r.answer with
  | some a => s1.emit (s1.answerTo a.frame opMgmtResp status 0 [])
  | none => s1

/-- RESULT of an update of FAB_LEDGER_CMD that waits while a fabric-wide generation is open (R299). -/
def State.deferLedger (s : State) : State :=
  if s.fabGenOpen ∧ s.fab.ledgerQ.any (fun r => r.fromCmd) then { s with fab := { s.fab with ledgerResult := 2 } } else s

/-- The next queued update begins: one locked sequence, which names the stack port of the first copy and writes both (R273, R299; DEDUCED,
log 18), unless a fabric-wide generation
is open (R299, R313). -/
def State.ledgerNext (s : State) : State := match s.fab.ledgerQ with
  | [] => s
  | r :: t =>
    if s.fabGenOpen ∨ !s.walkerFree s.ledgerA then s
    else
      let s1 := { s with fab := { s.fab with ledgerQ := t } }
      if s.ledgerOff then s1.ledgerEnd r 0 fcOwnerMiss
      else
        let l : Lock := ⟨28, s.ledgerA, .ledger r⟩
        State.askTable { s1 with xb := { s1.xb with locks := s1.xb.locks ++ [l] } } false (s.lineBytes r.entry)

/-- An update arrives: it queues, and begins if it may. A LEDGER_SET that finds 1,024 waiting ends in TIMEOUT. -/
def State.ledgerReq (s : State) (r : LedgerReq) : State :=
  if 1024 ≤ s.fab.ledgerQ.length ∧ !r.fromCmd then s.ledgerEnd r 0 fcTimeout
  else
    let s1 := { s with fab := { s.fab with
      ledgerQ := s.fab.ledgerQ ++ [r]
      ledgerResult := if r.fromCmd then 0 else s.fab.ledgerResult } }
    s1.deferLedger.ledgerNext

/-- A write of FAB_LEDGER_CMD; ignored while GO is set. -/
def State.ledgerCmd (s : State) (v : Word) : State :=
  if s.fab.ledgerGo then s
  else
    let e := BitVec.ofNat 24 (field v.toNat 63 40)
    let s1 := { s with fab := { s.fab with ledgerEntry := e, ledgerGo := bitAt v.toNat 0 } }
    if bitAt v.toNat 0 then s1.ledgerReq ⟨e.toNat, s.fab.ledgerSet, true, none⟩ else s1

def execLedgerCmdGo (v : Word) (s : State) : Host.Outcome State Fault Refusal := .next (s.served (·.ledgerCmd v))

/-- LEDGER_DEFERRED_APPLY. -/
def execLedgerDeferredApply (s : State) : Host.Outcome State Fault Refusal := .next s.ledgerNext

/-- FAB_LEDGER is not written while a fabric-wide generation is open or a fabric instruction is under way (R297). -/
def State.ledgerPlace (s : State) (v : Word) : State :=
  let busy := s.fabGenOpen || (List.range 64).any (fun c => match s.head c with
    | some i => s.active c && i.isFabric
    | none => false)
  if busy then s else { s with fab := { s.fab with ledger := v &&& 0x8FF0FFFFFFFFFFFF } }

/-- A write of FAB_NODE (R293). -/
def State.nodeWrite (s : State) (v : Word) : State :=
  let w := v.toNat
  { s with fab := { s.fab with
    addrValid := true, root := bitAt w 62, addr := BitVec.ofNat 20 (field w 59 40), rootAddr := BitVec.ofNat 20 (field w 39 20) } }

def execNodeAddrWrite (v : Word) (s : State) : Host.Outcome State Fault Refusal := .next (s.served (·.nodeWrite v))

end Sys2Proof.Machine
end

