-- ==== Sys2Proof/Machine/Transport.lean ====
section
/-!
DEFINITION. The transport layer (R290 to R296, R301, R303): transaction numbers, the checks at an owner, reads, writes and locked
combines there, the answers at a requester, and the management frames a node accepts.
-/
namespace Sys2Proof.Machine

/-- A frame of the named operation for this node is taken and acted on; one out of sequence is discarded (R286). -/
def State.deliver (s : State) (p : Ingress) (op : Nat) (f : Frame) (act : State → State) : State :=
  if f.hdr.op.toNat = op ∧ s.isLocal f then
    match s.take p f with
    | some t => act t
    | none => s.refuseFrame p
  else s

/-! ## Transaction numbers (R292) -/

/-- The next number not in use, if one of the 65,536 is free. -/
def Fab.freeTxn (f : Fab) : Option (BitVec 16) :=
  ((List.range (f.txns.length + 1)).map (fun k => f.nextTxn + BitVec.ofNat 16 k)).find? (fun n =>
    f.txns.all (fun t => decide (t.txn ≠ n)))

/-- A request leaves under a number of its own; with none free it waits. -/
def State.startTxn (s : State) (t : Txn) : State := match s.fab.freeTxn with
  | some n =>
    let fr := { t.frame with hdr := { t.frame.hdr with txn := n } }
    ({ s with fab := { s.fab with txns := s.fab.txns ++ [{ t with txn := n, frame := fr }], nextTxn := n + 1 } }).emit fr
  | none => { s with fab := { s.fab with waiting := s.fab.waiting ++ [t] } }

/-- A number is free again; the first request that waits takes one. -/
def State.endTxn (s : State) (n : BitVec 16) : State :=
  let s1 := { s with fab := { s.fab with txns := s.fab.txns.filter (fun t => decide (t.txn ≠ n)) } }
  match s1.fab.waiting with
  | [] => s1
  | t :: rest => ({ s1 with fab := { s1.fab with waiting := rest } }).startTxn t

/-- Requests of a stopped instruction that await a READ_RESP are abandoned, and its unsent ones dropped. -/
def State.dropReads (s : State) (c : Nat) : State :=
  let s1 := { s with fab := { s.fab with waiting := s.fab.waiting.filter (fun t => decide (t.ctx ≠ c)) } }
  (s1.fab.txns.filter (fun t => decide (t.ctx = c) && !t.write)).foldl (fun s t => s.endTxn t.txn) s1

/-! ## The owner's side (R303) -/

/-- What the owner's checks find. -/
inductive Owned where
  | ok (ctx window off : Nat)
  | hold
  | fail (status : Nat)
deriving DecidableEq, Repr

/-- Bit of an entry that is a replica under R301. -/
def State.isReplica (s : State) (e : Nat) : Bool := bitAt s.fab.ledger.toNat 63 && decide (2 ^ 23 ≤ e)

/-- The owner's window, and the save window that a change of its record needs (R258), are resident. -/
def State.ownerResident (s : State) (c : Nat) (e : WinEntry) (write : Bool) : Bool :=
  e.resident && (!(write && e.aside) || (s.saveWindow c).resident)

/-- Whether a context may take a WRITE of a fabric generation: it holds it open, has not yet heard of it, or neither. -/
def State.genTakes (s : State) (c : Nat) (fgen : BitVec 32) : Option Bool :=
  let g := (s.ctx c).gen
  if fgen = 0 then some true
  else if g.isOpen ∧ g.fab ∧ g.fgen = fgen ∧ g.flip = .none then some true
  else if g.member = .joining then some false
  else none

/-- Permissions of the owner's window (R303 step 2, R46). -/
def ownerGrants (e : WinEntry) (write : Bool) (fgen : BitVec 32) : Bool :=
  e.valid && e.remote && (if write then e.write && (e.aside || decide (fgen = 0)) else e.read)

/-- What the requester's entry named. -/
def Owner.home (o : Owner) : Nat × Nat × Nat := (o.ctx, o.window, o.slot)

/-- The checks of R303 in their order; `blk` is the block size, `home` what the requester's entry named, where this node made the request
itself. A frame carries neither CTX, WINDOW nor SLOT of that entry, so that of another node's request step 1 can compare the node alone
(R290; DEDUCED, log 115). A window that follows another takes no write (R253). -/
def State.ownerCheck (s : State) (write : Bool) (entry boff len blk : Nat) (home : Option (Nat × Nat × Nat)) (fgen : BitVec 32) : Owned :=
  match s.lookup entry with
  | .error code => .fail code
  | .ok o =>
    let e := s.winEff o.ctx o.window
    if o.node ≠ s.fab.addr ∨ home.any (fun h => decide (h ≠ o.home)) then .fail fcOwnerMiss
    else if !ownerGrants e write fgen ∨ (write ∧ (s.follow o.ctx o.window).isSome) then .fail fcProtect
    else if !s.winConsistent e then .fail fcBounds
    else if e.limit < o.slot * blk + blk ∨ blk < boff + len then .fail fcOwnerMiss
    else
      let last := fun (_ : Unit) =>
        if !s.ownerResident o.ctx e write then .fail fcResidency
        else if !write ∧ s.isReplica entry ∧
            (tabGet 0 (s.ctx o.ctx).gen.winFgen o.window).toNat % 2 ^ 30 ≠ (s.ctx o.ctx).gen.lastFgen.toNat % 2 ^ 30 then
          .fail fcDivergent
        else Owned.ok o.ctx o.window (o.slot * blk + boff)
      if write then match s.genTakes o.ctx fgen with
        | none => .fail fcGenAborted
        | some false => .hold
        | some true => last ()
      else last ()

/-- The bits a run occupies: start bit within its first byte, spare bits at the top of its last (DESIGN CHOICE, log 50). -/
def startBit (h : NetHdr) : Nat := field h.w3.toNat 34 32
def spareBits (h : NetHdr) : Nat := field h.w3.toNat 37 35

/-- One contiguous run of elements of a block, with its raw bits. -/
structure Run where
  len : Nat
  bit : Nat
  bits : Nat
  value : Nat
deriving DecidableEq, Repr

def runOf (f : Frame) : Run :=
  let n := f.hdr.len
  let b := startBit f.hdr
  let bits := 8 * n - b - spareBits f.hdr
  ⟨n, b, bits, leNat (f.payload.take n) / 2 ^ b % 2 ^ bits⟩

/-- The element of D that a run's piece goes to, combined with the value it holds (R133, R134, R305). -/
def State.combineAt (s : State) (mode fmt : Nat) (place : Place) (byte bit seed v : Nat) : State × BitVec 5 :=
  let b := fmtBits fmt
  let l : Loc := ⟨place, byte + bit / 8, bit % 8, b⟩
  let n := combineNums mode (fmtFloat fmt) seed [decodeElem fmt (v % 2 ^ b), decodeElem fmt (s.readLoc l)]
  let e := encodeElem fmt .rne false n
  (s.writeLoc l e.1, e.2)

/-- The bytes of a run are written: under FAULT, ANY and LAST the run replaces what is there, else each element combines. With them come
the sticky bits (R69). -/
def State.writeRun (s : State) (r : Run) (mode fmt : Nat) (place : Place) (off : Nat) : State × BitVec 5 :=
  if mode < 3 then (s.writeLoc ⟨place, off, r.bit, r.bits⟩ r.value, 0)
  else
    let b := fmtBits fmt
    let m := (List.range (r.bits / b)).foldl (fun a k =>
      let x := a.1.combineAt mode fmt place off (r.bit + k * b) (s.free + 2 * k) (r.value / 2 ^ (k * b))
      (x.1, a.2 ||| x.2)) (s, (0 : BitVec 5))
    (m.1.bump (2 * (r.bits / b)), m.2)

/-- Region a WRITE goes to: the aside region of the open generation, or in place (R303). -/
def writeRegion (e : WinEntry) (fgen : BitVec 32) : Nat := if fgen = 0 then e.current else 1 - e.current

/-- An accepted run at its owner: recorded, written, and sent to the stack ports (R243, R247, R303). `ack` is the answer to send when it
is accepted there; the sticky bits of a combine go to a context of this node that asked for it (R69, DEDUCED, log 97). `via` is the master
whose locked sequence writes. -/
def State.ownerWrite (s : State) (c w off : Nat) (fgen : BitVec 32) (r : Run) (mode fmt : Nat) (by_ : Requester) (ack : Option Frame)
    (flagsTo via : Option Nat) : State :=
  let e := s.winEff c w
  let region := writeRegion e fgen
  let g := touch ((List.range r.len).map (fun k => e.xlate region (off + k)))
  let m := (s.recordWrite c w off (off + r.len - 1) (decide (fgen = 0))).writeRun r mode fmt (.stack (c, w) e region) off
  let s1 := match flagsTo with
    | some d => m.1.addFlags d m.2
    | none => m.1
  (s1.ask { write := true, by_ := by_, slice := s.sliceOf c, port := via, window := some (c, w), ackTo := ack } g).addBytes c (granBytes g)

/-- A free fabric master, where the stack port is free for a locked sequence of a combine (R265, R273). -/
def State.freeMaster (s : State) (k : Nat) : Option Nat :=
  let n := match s.build with
    | .t12 => 3
    | .t4 => 1
  if !s.crossRuns ∨ s.xb.locks.any (fun l => decide (l.target = k)) then none
  else ((List.range n).map (· + 24)).find? (fun m => s.xb.locks.all (fun l => decide (l.master ≠ m)))

/-- A WRITE or READ_REQ waits at its owner. -/
def State.holdWrite (s : State) (a : Arrival) : State := { s with fab := { s.fab with heldWrites := s.fab.heldWrites ++ [a] } }

/-- Block size behind an entry as the owner has it; no frame carries it (DESIGN CHOICE, log 51). -/
def State.blockOf (_s : State) (e : Nat) : Nat := 65536 * 2 ^ (Config.blockLog e % 15)

/-- The request of this node that a frame of its own carries. -/
def State.ownTxn (s : State) (a : Arrival) : Option Txn :=
  if a.port.isNone then s.fab.txns.find? (fun t => decide (t.txn = a.frame.hdr.txn)) else none

/-- Block size of the request a frame belongs to: this node's own requests hold it. -/
def State.frameBlock (s : State) (a : Arrival) : Nat := match s.ownTxn a with
  | some t => t.block
  | none => s.blockOf a.frame.hdr.entry

/-- The owner's checks of a frame. -/
def State.frameCheck (s : State) (a : Arrival) (write : Bool) : Owned :=
  let h := a.frame.hdr
  s.ownerCheck write h.entry h.boff h.len (s.frameBlock a) ((s.ownTxn a).bind (·.home)) h.fgen

/-- The answer to a WRITE. -/
def State.ackFrame (s : State) (a : Arrival) (status : Nat) : Frame := s.answerTo a.frame opWriteAck status 0 []
def State.ackWrite (s : State) (a : Arrival) (status : Nat) : State := s.emit (s.ackFrame a status)

/-- The context of this node that a frame of its own belongs to. -/
def Arrival.own (a : Arrival) : Option Nat := if a.port.isNone then some a.frame.hdr.ctx.toNat else none

/-- What a translation at the owner waits for: a flip's hold (R242), and before an aside write the pins on its region (R252) and its
catch-up (R245; DEDUCED, log 128). -/
def State.ownerHold (s : State) (c w : Nat) (aside : Bool) : Bool :=
  s.flipHold c [w] || (aside && (s.pinnedAside c w || decide ((s.winRec c w).st = .lag)))

/-- What one locked sequence folds in of a combining WRITE at offset `off` of its window: the elements that are not done yet, up to the end of
the stripe in which the first of them begins, since a sequence names one stack port (R273, R305; DEDUCED, log 18). -/
structure Fold where
  off : Nat
  run : Run
  upTo : Nat                 -- elements done after it
  all : Nat                  -- elements of the WRITE
deriving DecidableEq, Repr

def Arrival.fold (a : Arrival) (off : Nat) : Fold :=
  let r := runOf a.frame
  let b := max 1 (fmtBits a.frame.hdr.fmt.toNat)
  let n := r.bits / b
  let byte := fun (j : Nat) => off + (r.bit + j * b) / 8
  let upTo := a.done + ((List.range' a.done (n - a.done)).filter (fun j => decide (byte j / 4096 = byte a.done / 4096))).length
  let bit := (r.bit + a.done * b) % 8
  let bits := (upTo - a.done) * b
  ⟨byte a.done, ⟨ceilDiv (bit + bits) 8, bit, bits, r.value / 2 ^ (a.done * b) % 2 ^ bits⟩, upTo, n⟩

/-- The bytes of one region that a fold touches. -/
def Fold.bytes (f : Fold) (e : WinEntry) (region : Nat) : Tab Nat := touch ((List.range f.run.len).map (fun k => e.xlate region (f.off + k)))

/-- A fabric master begins the locked sequence of a combine with the read of what it folds into (R273). -/
def State.beginCombine (s : State) (a : Arrival) (m k c w : Nat) (g : Tab Nat) : State :=
  let l : Lock := ⟨m, k, .combine a⟩
  (State.ask { s with xb := { s.xb with locks := s.xb.locks ++ [l] } }
    { write := false, by_ := .combine m, port := some m, window := some (c, w) } g).addBytes c (granBytes g)

/-- A WRITE at its owner (R303, R305). A reserved COMBINE is answered BOUNDS, and a combine in a format that is unknown or MX FORMAT, ahead of
the other checks (DESIGN CHOICE, log 148). -/
def State.writeAt (s : State) (a : Arrival) : State :=
  let h := a.frame.hdr
  let fmt := h.fmt.toNat
  if 6 ≤ h.combine then s.ackWrite a fcBounds
  else if 3 ≤ h.combine ∧ (!fmtKnown fmt ∨ fmtMx fmt) then s.ackWrite a fcFormat
  else match s.frameCheck a true with
    | .fail code => s.ackWrite a code
    | .hold => s.holdWrite a
    | .ok c w off =>
      if h.len = 0 then s.ackWrite a 0
      else if s.ownerHold c w (h.fgen ≠ 0) then s.holdWrite a
      else if h.combine < 3 then
        s.ownerWrite c w off h.fgen (runOf a.frame) h.combine fmt (.remote c w) (some (s.ackFrame a 0)) none none
      else
        let e := s.winEff c w
        let f := a.fold off
        let k := (e.xlate (writeRegion e h.fgen) f.off).1
        match s.freeMaster k with
        | some m => s.beginCombine a m k c w (f.bytes e (writeRegion e h.fgen))
        | none => s.holdWrite a

/-- A READ_REQ at its owner: the bytes of the current generation once its reads complete, or STATUS. -/
def State.readAt (s : State) (a : Arrival) : State :=
  let h := a.frame.hdr
  match s.frameCheck a false with
  | .fail code => s.emit (s.answerTo a.frame opReadResp code 0 [])
  | .hold => s
  | .ok c w off =>
    let e := s.winEff c w
    let f := s.answerTo a.frame opReadResp 0 (tabGet 0 (s.ctx c).gen.winFgen w) (s.winRead e e.current off h.len)
    if s.ownerHold c w false then s.holdWrite a
    else if h.len = 0 then s.emit f
    else
      let g := touch ((List.range h.len).map (fun k => e.xlate e.current (off + k)))
      (s.ask { write := false, by_ := .remote c w, slice := s.sliceOf c, window := some (c, w), ackTo := some f } g).addBytes c (granBytes g)

/-- A request at its owner. -/
def State.serveAt (s : State) (a : Arrival) : State := if a.frame.hdr.op.toNat = opReadReq then s.readAt a else s.writeAt a

/-- Held requests are looked at again, in their order of arrival, while CROSS runs. -/
def State.retryHeld (s : State) : State :=
  if s.crossRuns then s.fab.heldWrites.foldl State.serveAt { s with fab := { s.fab with heldWrites := [] } } else s

/-- The window entries that the owner needs for a request and does not hold (R42). -/
def State.ownerMisses (s : State) (a : Arrival) : List (Nat × Nat) := match s.lookup a.frame.hdr.entry with
  | .ok o => if o.node = s.fab.addr then s.missing o.ctx [o.window] else []
  | .error _ => []

/-- The walker goes on with the request that it resolves an entry for: once both copies have been read, a losing one is rewritten when the
walker is free (R300); then the entry of the owner's window is read where the unit does not hold it (R42), and the request is served. -/
def State.resolveNext (s : State) (a : Arrival) : State :=
  if s.outstanding (.resolve a) then s
  else match (if a.port.isSome ∧ !s.ledgerOff then s.nextRewrite [a.frame.hdr.entry / 8] else none) with
    | some (k, l) => if s.walkerFree k then s.lockRewrite k l none (some a) else s
    | none =>
      match s.ownerMisses a with
      | [] => State.serveAt { s with fab := { s.fab with resolving := s.fab.resolving.erase a } } a
      | o :: _ => s.missEntries o.1 [o.2] (.resolve a)

def State.resolveOn (s : State) : State := if s.crossRuns then s.fab.resolving.foldl State.resolveNext s else s

/-- A request arrives at its owner, whose walker resolves the entry; one of this node itself has been resolved by its requester. One that meets
CROSS in reset is lost (R300, R316, R323). -/
def State.serve (s : State) (p : Ingress) (f : Frame) : State :=
  let a : Arrival := ⟨p, f, 0⟩
  if !s.crossRuns then s
  else if p.isSome ∧ !s.ledgerOff then (s.askResolve a).resolveNext a
  else State.resolveNext { s with fab := { s.fab with resolving := s.fab.resolving ++ [a] } } a

def execWrite (p : Ingress) (f : Frame) (s : State) : Host.Outcome State Fault Refusal :=
  .next (s.deliver p opWrite f (fun t => t.serve p f))

/-- READ_REQ. -/
def execReadReq (p : Ingress) (f : Frame) (s : State) : Host.Outcome State Fault Refusal :=
  .next (s.deliver p opReadReq f (fun t => t.serve p f))

/-! ## Locked sequences (R273, R274) -/

/-- The lock a master holds. -/
def State.lockOf (s : State) (m : Nat) : Option Lock := s.xb.locks.find? (fun l => decide (l.master = m))

def State.unlock (s : State) (m : Nat) : State :=
  { s with xb := { s.xb with locks := s.xb.locks.filter (fun l => decide (l.master ≠ m)) } }

/-- The closing piece of a combine: the WRITE is checked again and its elements folded in. Elements past the stripe follow in a locked sequence
of their own. -/
def State.combineClose (s : State) (a : Arrival) (m : Nat) : State :=
  let h := a.frame.hdr
  match s.frameCheck a true with
  | .ok c w off =>
    let f := a.fold off
    let rest := decide (f.upTo < f.all)
    let s1 := (s.ownerWrite c w f.off h.fgen f.run h.combine h.fmt.toNat (.remote c w) (if rest then none else some (s.ackFrame a 0)) a.own
      (some m)).unlock m
    if rest then s1.writeAt { a with done := f.upTo } else s1
  | .hold => (s.unlock m).holdWrite a
  | .fail code => (s.unlock m).ackWrite a code

/-- What waited for the lock goes on. -/
def State.afterLock (s : State) : State := s.resolveOn.retryHeld.ledgerNext.settlePorts

/-- LOCKED_SEQUENCE_CLOSE: the sequence's writes enter the ports while it still holds the one it names, ahead of every other master's pieces
(R273). A combine first has what it reads. -/
def State.lockClose (s : State) (m : Nat) : State := match s.lockOf m with
  | none => s
  | some l =>
    if s.outstanding (.combine m) then s
    else
    let s1 := match l.job with
      | .ledger r => ((s.ledgerWrite r).unlock m).ledgerEnd r (s.ledgerOutcome r.entry) 0
      | .combine a => s.combineClose a m
      | .rewrite lines _ _ => (s.rewriteLines l.target lines).unlock m
    s1.afterLock

def execLockedSequenceClose (m : Fin 30) (s : State) : Host.Outcome State Fault Refusal := .next (s.lockClose m)

/-- XBAR_LOCK_STATUS after a cut-off. -/
def State.recordCut (s : State) (l : Lock) : State :=
  { s with xb := { s.xb with
    lockCount := if s.xb.lockCount = 0xFFFFFFFF then 0xFFFFFFFF else s.xb.lockCount + 1
    lockTarget := BitVec.ofNat 6 l.target, lockMaster := BitVec.ofNat 5 l.master, lockValid := true } }

/-- The instruction that a rewrite serves stops with LOCK_TIMEOUT and no effect (R179, R274); the request of another node that it serves is
answered LOCK_TIMEOUT, and is resolved no further. -/
def State.rewriteCut (s : State) (who : Option (Nat × BitVec 32)) (req : Option Arrival) : State :=
  let s1 := match req with
    | some a => State.refuseReq { s with fab := { s.fab with resolving := s.fab.resolving.erase a } } a.frame fcLockTimeout
    | none => s
  match who with
  | some (c, n) => (match s1.head c with
    | some i => if s1.active c ∧ i.n = n ∧ i.isFabric ∧ i.phase = .ready then s1.stopFault c { code := fcLockTimeout, stage := 4 } else s1
    | none => s1)
  | none => s1

/-- LOCK_TIMEOUT (R274): the held writes are discarded and the target released. An update of FAB_LEDGER_CMD keeps GO, which clears only
once it is applied (R299), and is made again; a frame is answered (DEDUCED, log 40). -/
def State.lockCut (s : State) (m : Nat) : State := match s.lockOf m with
  | none => s
  | some l =>
    let s1 := (s.unlock m).recordCut l
    let s2 := match l.job with
      | .ledger r =>
        if r.fromCmd then State.deferLedger { s1 with fab := { s1.fab with ledgerQ := r :: s1.fab.ledgerQ } }
        else s1.ledgerEnd r 0 fcLockTimeout
      | .combine a => s1.ackWrite a fcLockTimeout
      | .rewrite _ who req => s1.rewriteCut who req
    s2.afterLock

def execLockTimeout (m : Fin 30) (s : State) : Host.Outcome State Fault Refusal := .next (s.lockCut m)

/-! ## Responses of the stacks (R262, R264, R406) -/

/-- STACK_READ_RESPONSE. -/
def execStackReadResponse (k : Fin 12) (tag : BitVec 10) (err : Bool) (s : State) : Host.Outcome State Fault Refusal :=
  .next (s.response k false tag.toNat err).afterLock

/-- STACK_WRITE_RESPONSE. -/
def execStackWriteResponse (k : Fin 12) (tag : BitVec 10) (err : Bool) (s : State) : Host.Outcome State Fault Refusal :=
  .next (s.response k true tag.toNat err).afterLock

/-- STACK_REQUEST_TIMEOUT. -/
def execStackRequestTimeout (k : Fin 12) (write : Bool) (tag : BitVec 10) (s : State) : Host.Outcome State Fault Refusal :=
  .next (s.requestTimeout k write tag.toNat).afterLock

/-! ## The requester's side (R292, R301) -/

/-- The port that a failed request's frames leave by, or would if its route were live (R401). -/
def State.portOf (s : State) (h : NetHdr) : Option Nat :=
  (s.routeOf h).or ((bestRoute s.fab.route h.dst.toNat).map (fun e => field e 34 30))

/-- A request of a context failed for good: its fabric instruction stops, or its COMMIT that has not voted, or, when the
instruction has retired, the context at its next boundary; the generation is aborted (R292, R307, R310). -/
def State.remoteFault (s : State) (c code : Nat) (h : NetHdr) : State :=
  let s1 := s.dropReads c
  let f : FaultRec :=
    { code := code, stage := 4, node := some h.dst.toNat, port := if code = fcLinkDown then s.portOf h else none }
  match s1.head c with
  | some i =>
    if s1.active c ∧ i.isFabric ∧ (i.phase ≠ .ready ∨ i.halted) then s1.stopFault c f
    else if s1.active c ∧ i.is opCommit ∧ i.phase = .waiting ∧ (s1.ctx c).gen.member = .open_ then
      (s1.askAbort c).stopFault c { f with stage := 5 }
    else (s1.askAbort c).boundaryFault c (if i.is opFence ∧ i.phase = .waiting then { f with stage := 5 } else f)
  | none => (s1.askAbort c).boundaryFault c f

/-- The replica that serves a read whose primary did not answer, or the fault that ends it (R300, R301). -/
def State.replicaOf (s : State) (t : Txn) (status : Nat) : Except Nat Txn :=
  let e := t.frame.hdr.entry
  if t.write ∨ t.replica ∨ !bitAt s.fab.ledger.toNat 63 ∨ 2 ^ 23 ≤ e ∨ (status ≠ fcLinkDown ∧ status ≠ fcTimeout) then .error status
  else match s.lookup (e + 2 ^ 23) with
    | .error code => .error (if code = fcOwnerMiss then status else code)
    | .ok o =>
      let h := t.frame.hdr
      .ok { t with
        replica := true, retries := 0, resident := false, home := some o.home
        frame := { t.frame with hdr := { h with dst := o.node, w2 := packW2 (e + 2 ^ 23) h.boff h.len } } }

/-- A request ends with a STATUS other than 0 and RESIDENCY. -/
def State.failTxn (s : State) (t : Txn) (status : Nat) : State :=
  let s1 := s.endTxn t.txn
  match s.replicaOf t status with
  | .ok r => s1.startTxn r
  | .error code => s1.remoteFault t.ctx code t.frame.hdr

/-- The cell that takes destination element e of an RGET, and where it lies: the elements are numbered through the index cells in order. -/
def State.destAt (s : State) (c : Nat) (i : Cur) (e : Nat) : Nat × Loc :=
  let exts := i.slotExts 3
  let n := max 1 (prodNat exts)
  let cell := i.indexCells.getD (e / n) 0
  let idx := (exts.foldl (fun (acc : List Nat × Nat) x => (acc.1 ++ [acc.2 % max 1 x], acc.2 / max 1 x)) ([], e % n)).1
  (i.windowCell cell i.positions (idx.getD i.axis 0), (s.slotView c i 3 cell).at_ idx)

/-- Numbers that arrive for destination elements of an RGET. -/
def State.landElems (s : State) (c : Nat) (i : Cur) (l : List (Nat × Nat)) : Moved :=
  let w := l.map (fun e => (s.destAt c i e.1, e.2))
  { Moved.none with writes := w.map (fun e => (e.1.2, e.2)), stores := w.map (fun e => { cell := e.1.1, part := (0, 0), loc := e.1.2 }) }

/-- The window that an RGET cannot write its destination for: that window, or the save window that holds its record (R51, R258). -/
def State.destAway (s : State) (c : Nat) (i : Cur) : Option Nat := match i.descAt 3 with
  | some d =>
    let e := s.winEff c d.window
    if d.space ≠ 0 then none
    else if !e.resident then some d.window
    else if e.aside && !(s.saveWindow c).resident then some (s.saveAt c).1
    else none
  | none => none

/-- The window of 4,096 positions that a destination element of an RGET belongs to. -/
def Cur.destWindow (i : Cur) (e : Nat) : Nat :=
  let exts := i.slotExts 3
  (unrank exts (e % max 1 (prodNat exts))).getD i.axis 0 / 4096

/-- RESIDENCY as data arrives for an RGET: it halts with the lowest window of which a read is not complete, and its other reads are abandoned
(R51, R420). -/
def State.haltArrival (s : State) (c : Nat) (i : Cur) (t : Txn) (w : Nat) : State :=
  let reads := t :: (s.fab.txns ++ s.fab.waiting).filter (fun x => decide (x.ctx = c) && !x.write)
  let ws := reads.flatMap (fun x => x.dest.map (fun e => i.destWindow e.1))
  ((s.dropReads c).setHead c { i with pos := [0, ws.foldl min (ws.headD 0)], halted := true, phase := .ready, pins := [] }).stopFault c
    { residencyFault with slot := some 3, win := some w }

/-- The bytes of a READ_RESP land in the destination of the RGET they belong to. -/
def State.landBytes (s : State) (c : Nat) (i : Cur) (t : Txn) (bytes : List Byte) : State :=
  let v := leNat bytes
  let b := fmtBits (i.slotFmt 3)
  let m := s.landElems c i (t.dest.map (fun e => (e.1, v / 2 ^ e.2 % 2 ^ b)))
  (s.rereadEntries c i).applyMoved c i m

/-- A READ_RESP of another node has come: what goes to staging crosses from the fabric complex to the cell's slice (R266). -/
def State.landRead (s : State) (t : Txn) (bytes : List Byte) : State := match s.head t.ctx with
  | some i =>
    if i.is opRget then (match s.destAway t.ctx i with
      | some w => s.haltArrival t.ctx i t w
      | none =>
        let at_ := t.dest.flatMap (fun e => ((s.destAt t.ctx i e.1).2).cellBytes)
        let n := t.txn.toNat
        ((at_.map (·.1)).eraseDups).foldl (fun u g => u.crossSend (.instr t.ctx) (s.fabricTarget n - 12) (slicePort (g / 64) g)
          ((at_.filter (fun b => decide (b.1 = g))).map (fun b => cellAddr b.1 b.2))) (s.landBytes t.ctx i t bytes))
    else s
  | none => s

/-- A response at the requester; one that belongs to no outstanding request is discarded. -/
def State.response_ (s : State) (write : Bool) (f : Frame) : State :=
  match s.fab.txns.find? (fun t => decide (t.txn = f.hdr.txn ∧ t.write = write)) with
  | none => s
  | some t =>
    let code := f.hdr.status.toNat
    if code = 0 then
      (if write then (s.endTxn t.txn).tryVote t.ctx else (s.endTxn t.txn).landRead t f.payload)
    else if code = fcResidency then
      { s with fab := { s.fab with txns := s.fab.txns.map (fun x => if x.txn = t.txn then { x with resident := true } else x) } }
    else s.failTxn t code

/-- READ_RESP. -/
def execReadResp (p : Ingress) (f : Frame) (s : State) : Host.Outcome State Fault Refusal :=
  .next (s.deliver p opReadResp f (fun t => t.response_ false f))

/-- WRITE_ACK. -/
def execWriteAck (p : Ingress) (f : Frame) (s : State) : Host.Outcome State Fault Refusal :=
  .next (s.deliver p opWriteAck f (fun t => t.response_ true f))

/-- A held request is not held longer than REQ_TIMEOUT: a WRITE that waited for its generation ends in GEN_ABORTED, one that
waited for a fabric master, a pin or a flip in TIMEOUT. -/
def State.expireHeld (s : State) (n : BitVec 16) : State :=
  let (gone, kept) := s.fab.heldWrites.partition (fun a => decide (a.frame.hdr.txn = n))
  gone.foldl (fun t a =>
    if a.frame.hdr.op.toNat = opReadReq then t.emit (t.answerTo a.frame opReadResp fcTimeout 0 []) else
    let code := match t.frameCheck a true with
      | .hold => fcGenAborted
      | .fail code => code
      | .ok _ _ _ => fcTimeout
    t.ackWrite a code) { s with fab := { s.fab with heldWrites := kept } }

/-- REQ_TIMEOUT_EXPIRE (R292): a READ_REQ without a response is sent again under a new number, three times at most. -/
def State.reqTimeout (s : State) (n : BitVec 16) : State :=
  match s.fab.txns.find? (fun t => decide (t.txn = n)) with
  | none => s.expireHeld n
  | some t =>
    if !t.write ∧ !t.resident ∧ t.retries < 3 then (s.endTxn n).startTxn { t with retries := t.retries + 1 }
    else s.failTxn t fcTimeout

def execReqTimeoutExpire (txn : BitVec 16) (s : State) : Host.Outcome State Fault Refusal := .next (s.reqTimeout txn)

/-- RESIDENCY_RETRY (R292): the same request with the same number. -/
def execResidencyRetry (txn : BitVec 16) (s : State) : Host.Outcome State Fault Refusal :=
  .next (match s.fab.txns.find? (fun t => decide (t.txn = txn) && t.resident) with
    | some t => s.emit t.frame
    | none => s)

/-! ## Management (R290, R294, R299) -/

/-- R294. -/
def State.mgmtOk (s : State) (f : Frame) : Bool :=
  (!s.fab.addrValid && sourceRouted f.hdr.op.toNat) || decide (f.hdr.src = s.fab.rootAddr)

/-- A management frame of the root, or one discarded and counted; the root's own leaves this node. -/
def State.deliverMgmt (s : State) (p : Ingress) (op : Nat) (f : Frame) (act : State → State) : State :=
  if p.isNone ∧ s.fab.root ∧ f.hdr.op.toNat = op ∧ !s.fab.loop.contains f then s.originate f
  else s.deliver p op f (fun t => if t.mgmtOk f then act t else t.countDiscard)

/-- LEDGER_SET. -/
def execLedgerSet (p : Ingress) (f : Frame) (s : State) : Host.Outcome State Fault Refusal :=
  .next (s.deliverMgmt p opLedgerSet f (fun t =>
    t.ledgerReq ⟨f.hdr.entry, BitVec.ofNat 64 (leNat (f.payload.take 8)), false, some ⟨p, f, 0⟩⟩))

/-- The answer to a management frame, with STATUS 0. -/
def State.mgmtAnswer (s : State) (f : Frame) (payload : List Byte) : State := s.emit (s.answerTo f opMgmtResp 0 0 payload)

/-- The global page and the fabric page. -/
def mgmtPage (a : Nat) : Bool := decide (a < 0x100000 ∨ (0x400000 ≤ a ∧ a < 0x800000))

/-- REG_RD: the payload names the register by its offset in the aperture (PRESUMED, log 52). -/
def State.regRead (s : State) (f : Frame) : State :=
  let a := leNat (f.payload.take 8)
  if !mgmtPage a then s.countDiscard
  else
    let r := s.cpReadSized a false
    r.1.mgmtAnswer f (natLe 8 r.2.toNat)

def execRegRd (p : Ingress) (f : Frame) (s : State) : Host.Outcome State Fault Refusal :=
  .next (s.deliverMgmt p opRegRd f (fun t => t.regRead f))

/-- Fields of a routing entry that hold a value (R296). -/
def routeMask : Word := 0x83FFFFFFC00FFFFF

/-- A write of FAB_ROUTE. -/
def State.routeWrite (s : State) (k : Nat) (v : Word) : State :=
  { s with fab := { s.fab with route := tabSet 0 s.fab.route k (v &&& routeMask) } }

/-- The registers REG_WR may write; a misaligned offset of those pages writes nothing and sets BADACC (R382, R394). -/
def State.regWrite (s : State) (a : Nat) (v : Word) : Option State :=
  if mgmtPage a ∧ a % 8 ≠ 0 then some { s with glb := { s.glb with badAcc := true } }
  else if a = 0x400010 then some (s.nodeWrite v)
  else if a = 0x400018 then some (s.ledgerPlace v)
  else (regAt a 0x408000 4096).map (fun k => s.routeWrite k v)

/-- REG_WR: offset and value in the payload (PRESUMED, log 52). -/
def execRegWr (p : Ingress) (f : Frame) (s : State) : Host.Outcome State Fault Refusal :=
  .next (s.deliverMgmt p opRegWr f (fun t =>
    match t.regWrite (leNat (f.payload.take 8)) (BitVec.ofNat 64 (leNat ((f.payload.drop 8).take 8))) with
    | some u => u.mgmtAnswer f []
    | none => t.countDiscard))

/-- MGMT_RESP: what a management request of this node was answered. -/
def execMgmtResp (p : Ingress) (f : Frame) (s : State) : Host.Outcome State Fault Refusal :=
  .next (s.deliver p opMgmtResp f (fun t => { t with fab := { t.fab with mgmtResp := some f } }))

/-- RESERVED_OP_FRAME (R290): the destination discards the frame and counts it. -/
def execReservedOpFrame (p : Ingress) (f : Frame) (s : State) : Host.Outcome State Fault Refusal :=
  .next (if opKnown f.hdr.op.toNat then s else s.deliver p f.hdr.op.toNat f State.countDiscard)

end Sys2Proof.Machine
end

