-- ==== Sys2Proof/Machine/FabricInstr.lean ====
section
/-!
DEFINITION. RGET, RPUT and RESHARD (R179, R302, R304, R305): the elements of a global tensor, the runs they form within Ledger
blocks, and the requests that carry the runs. Bytes move as they are, without conversion.
-/
namespace Sys2Proof.Machine

/-! ## Elements and runs -/

/-- One element on its way: the bit where it begins in the tensor's global byte space, and its number at this node (a
destination element of an RGET) or its raw bits (a WRITE). -/
structure Item where
  at_ : Nat
  val : Nat
deriving DecidableEq, Repr

/-- A run: bits [lo, hi) of the global byte space with the elements in them. -/
structure Stretch where
  lo : Nat
  hi : Nat
  items : List Item
deriving DecidableEq, Repr

/-- Where an element of a global tensor begins (R30, R302). -/
def TDesc.globalBit (d : TDesc) (idx : List Nat) : Nat :=
  let l := descLoc d none (fun _ => .cell 0) idx
  8 * l.byte + l.bit

def insertItem (a : Item) : List Item → List Item
  | [] => [a]
  | b :: t => if a.at_ < b.at_ then a :: b :: t else b :: insertItem a t

def sortItems (l : List Item) : List Item := l.foldl (fun acc a => insertItem a acc) []

/-- Whether an element joins a run: it follows on (or, for reads, lies in it), the run stays within one block and 512 B. -/
def Stretch.takes (p : Stretch) (write : Bool) (blk b : Nat) (a : Item) : Bool :=
  decide (a.at_ = p.hi ∨ (!write ∧ a.at_ < p.hi)) && decide (a.at_ / 8 / blk = p.lo / 8 / blk)
    && decide (ceilDiv (a.at_ + b) 8 ≤ p.lo / 8 + 512)

/-- Runs of elements in ascending order. -/
def stretches (write : Bool) (blk b : Nat) : List Item → List Stretch → List Stretch
  | [], acc => acc.reverse
  | a :: t, [] => stretches write blk b t [⟨a.at_, a.at_ + b, [a]⟩]
  | a :: t, p :: rest =>
    if p.takes write blk b a then stretches write blk b t (⟨p.lo, max p.hi (a.at_ + b), p.items ++ [a]⟩ :: rest)
    else stretches write blk b t (⟨a.at_, a.at_ + b, [a]⟩ :: p :: rest)

def runsOf (write : Bool) (blk b : Nat) (l : List Item) : List Stretch := stretches write blk b (sortItems l) []

/-- Ledger entry of a run. -/
def Stretch.entry (p : Stretch) (led blk : Nat) : Nat := led + p.lo / 8 / blk
def Stretch.boff (p : Stretch) (blk : Nat) : Nat := p.lo / 8 % blk
def Stretch.len (p : Stretch) : Nat := ceilDiv p.hi 8 - p.lo / 8

/-- The run's raw bits, from its first bit on. -/
def Stretch.value (p : Stretch) : Nat := sumNat (p.items.map (fun a => a.val * 2 ^ (a.at_ - p.lo)))

def Stretch.run (p : Stretch) : Run := ⟨p.len, p.lo % 8, p.hi - p.lo, p.value⟩

/-! ## The Ledger, seen by an instruction -/

def fabFault (code : Nat) : FaultRec := { code := code, stage := 4 }

/-- Fabric generation the context's frames carry. -/
def State.frameGen (s : State) (c : Nat) : BitVec 32 :=
  let g := (s.ctx c).gen
  if g.isOpen ∧ g.fab then g.fgen else 0

/-- The first lookup of a list of entries that fails. -/
def State.ledgerFault (s : State) (es : List Nat) : Option Nat :=
  es.findSome? (fun e => match s.lookup e with
    | .error code => some code
    | .ok _ => none)

/-- Entries a block is written through: the primary, and its replica unless that is not VALID (R301). -/
def State.copiesOf (s : State) (e : Nat) : List Nat :=
  if bitAt s.fab.ledger.toNat 63 ∧ e < 2 ^ 23 then match s.lookup (e + 2 ^ 23) with
    | .ok _ => [e, e + 2 ^ 23]
    | .error code => if code = fcOwnerMiss then [e] else [e, e + 2 ^ 23]
  else [e]

def State.ownerNode (s : State) (e : Nat) : BitVec 20 := match s.lookup e with
  | .ok o => o.node
  | .error _ => 0

/-- CTX, WINDOW and SLOT of an entry, as its requester finds them (R303). -/
def State.homeOf (s : State) (e : Nat) : Option (Nat × Nat × Nat) := match s.lookup e with
  | .ok o => some o.home
  | .error _ => none

/-! ## Requests -/

/-- Word 3 of a WRITE: COMBINE, the run's odd bits, POS. -/
def packW3 (combine bit spare pos : Nat) : Word :=
  BitVec.ofNat 64 (combine % 8 * 2 ^ 61 + spare % 8 * 2 ^ 35 + bit % 8 * 2 ^ 32 + pos % 2 ^ 32)

/-- The request of one run as a frame with its bookkeeping. -/
def State.requestOf (s : State) (c : Nat) (write : Bool) (fmt entry blk combine pos : Nat) (p : Stretch) : Txn :=
  let spare := 8 * p.len - p.lo % 8 - (p.hi - p.lo)
  let body := if write then natLe p.len (p.value * 2 ^ (p.lo % 8)) else []
  let op := if write then opWrite else opReadReq
  let f := s.mkFrame op (s.ownerNode entry) c (s.frameGen c) 0 0 fmt (packW2 entry (p.boff blk) p.len)
    (if write then packW3 combine (p.lo % 8) spare pos else 0) body
  { txn := 0, frame := f, ctx := c, write := write, retries := 0, resident := false, replica := false, block := blk
    home := s.homeOf entry
    dest := if write then [] else p.items.map (fun a => (a.val, a.at_ - p.lo / 8 * 8)) }

/-- Outcome of a step over several runs: the state, or the fault that stops the instruction there. -/
abbrev Sent := Except (State × FaultRec) State

/-- A run of a block that this node owns moves through Crossway at once, after the owner's checks (R302); one whose window is
not resident, or held by a flip or by pins, or whose generation is not known yet, waits as a request of this node to itself. -/
def State.localRead (s : State) (c : Nat) (i : Cur) (t : Txn) : Sent :=
  let h := t.frame.hdr
  match s.ownerCheck false h.entry h.boff h.len t.block t.home h.fgen with
  | .ok oc w off =>
    let e := s.winEff oc w
    let g := touch ((List.range h.len).map (fun k => e.xlate e.current (off + k)))
    if s.ownerHold oc w false then .ok (s.startTxn t)
    else .ok (((((s.missEntries oc [w] (.fetch c i.n 2 5)).landBytes c i t (s.winRead e e.current off h.len))).ask
      { write := false, by_ := .instr c, slice := s.sliceOf c, window := some (oc, w) } g).addBytes c (granBytes g))
  | .hold => .ok (s.startTxn t)
  | .fail code =>
    if code = fcResidency then .ok (s.startTxn t)
    else .error (s, { fabFault code with slot := i.slotOfRole .gsrc })

/-- ADD, MAX and MIN are indivisible there too, and take a locked sequence as a request of this node to itself (R305). -/
def State.localWrite (s : State) (c : Nat) (i : Cur) (t : Txn) (p : Stretch) : Sent :=
  let h := t.frame.hdr
  match s.ownerCheck true h.entry h.boff h.len t.block t.home h.fgen with
  | .ok oc w off =>
    if 3 ≤ h.combine ∨ s.ownerHold oc w (h.fgen ≠ 0) then .ok (s.startTxn t)
    else .ok ((s.missEntries oc [w] (.fetch c i.n 2 5)).ownerWrite oc w off h.fgen p.run h.combine h.fmt.toNat (.instr c) none none none)
  | .hold => .ok (s.startTxn t)
  | .fail code =>
    if code = fcResidency then .ok (s.startTxn t)
    else .error (s, { fabFault code with slot := i.slotOfRole .gdst })

/-- A WRITE for another node: its payload goes from the slice to the fabric complex, over a path of its own number (R266;
DESIGN CHOICE, log 114). -/
def State.sendAway (s : State) (c : Nat) (t : Txn) : State :=
  let n := t.frame.hdr.entry
  (s.crossSend (.instr c) (2 * s.sliceOf c + n % 2) (s.fabricTarget n) (List.range t.frame.payload.length)).startTxn t

/-- One run through one Ledger entry. -/
def State.sendRun (s : State) (c : Nat) (i : Cur) (write : Bool) (fmt blk combine pos : Nat) (p : Stretch) (entry : Nat) : Sent :=
  let t := s.requestOf c write fmt entry blk combine pos p
  if s.ownerNode entry ≠ s.fab.addr then .ok (if write then s.sendAway c t else s.startTxn t)
  else if write then s.localWrite c i t p
  else s.localRead c i t

def State.sendAll (s : State) (l : List (State → Sent)) : Sent := l.foldl (fun r f => match r with
  | .ok t => f t
  | .error e => .error e) (.ok s)

/-- The instruction goes on to its retirement, or stops; one that halts leaves the WRITEs of what it has sent to go on (R51). -/
def finishSent (c : Nat) (r : Sent) (done : State → State) : State := match r with
  | .ok s => done s
  | .error (s, f) => (if f.resumable then s else s.dropReads c).stopFault c f

/-! ## RGET -/

/-- Destination elements of one index cell's windows from `lo` up to `hi`: its number, and its source index or none where
the position is dropped. -/
def State.rgetPairs (s : State) (c : Nat) (i : Cur) (rank cell : Nat) (sel : Nat → Bool) : List (Nat × Option (List Nat)) :=
  let exts := i.slotExts 3
  let acc := accepted (s.indexList (s.indexView c i cell)) ((i.slotExts 0).getD i.axis 0) i.indexMode
  ((indices exts).zipIdx.filter (fun e => sel (e.1.getD i.axis 0 / 4096))).map (fun e =>
    (rank * max 1 (prodNat exts) + e.2, (acc.getD (e.1.getD i.axis 0) none).map (fun x => e.1.set i.axis x)))

/-- The reads of the selected windows: one run list for each cell and window of 4,096 positions. -/
def State.rgetRuns (s : State) (c : Nat) (i : Cur) (d : TDesc) (blk : Nat) (sel : Nat → Bool) : List Stretch :=
  i.indexCells.zipIdx.flatMap (fun g =>
    (List.range (ceilDiv i.positions 4096)).flatMap (fun w =>
      if sel w then
        runsOf false blk (fmtBits d.f) ((s.rgetPairs c i g.2 g.1 (fun v => decide (v = w))).filterMap (fun e =>
          e.2.map (fun idx => ⟨d.globalBit idx, e.1⟩)))
      else []))

/-- Zero slices of dropped positions, and the reads of the index operands (R128). -/
def State.rgetZeros (s : State) (c : Nat) (i : Cur) (sel : Nat → Bool) : State :=
  let z := i.indexCells.zipIdx.flatMap (fun g =>
    (s.rgetPairs c i g.2 g.1 sel).filterMap (fun e => if e.2.isNone then some (e.1, 0) else none))
  s.applyMoved c i { s.landElems c i z with reads := s.indexReads c i sel }

/-- The selected windows of an RGET. -/
def State.rgetWindows (s : State) (c : Nat) (i : Cur) (sel : Nat → Bool) (done : State → State) : State :=
  match i.descAt 0 with
  | none => done s
  | some d =>
    let (led, blk, _) := i.ledgerOf 0
    let runs := s.rgetRuns c i d blk sel
    match s.ledgerFault (runs.map (fun p => p.entry led blk)).eraseDups with
    | some code => s.stopFault c { fabFault code with slot := some 1 }
    | none =>
      finishSent c ((s.rgetZeros c i sel).sendAll (runs.map (fun p t => t.sendRun c i false d.f blk 0 0 p (p.entry led blk)))) done

/-! ## RPUT -/

/-- Accepted positions of every index cell with their slots, numbered by position and then by the cells' rank, in order of number, so that
the instruction's own duplicates lie together (R305; DEDUCED, log 110). -/
def State.rputRecords (s : State) (c : Nat) (i : Cur) : List (Nat × Nat) :=
  let l := i.indexCells.zipIdx.map (fun g => (s.records c i g.1 ((i.slotExts 2).getD i.axis 0), g.2))
  (List.range i.positions).flatMap (fun p => l.flatMap (fun g =>
    (g.1.filter (fun r => decide (r.2 = p))).map (fun r => (r.1, p * i.indexCells.length + g.2))))

/-- The index cell of a numbered position, and the position there. -/
def Cur.writerCell (i : Cur) (k : Nat) : Nat := i.indexCells.getD (k % max 1 i.indexCells.length) 0
def Cur.writerPos (i : Cur) (k : Nat) : Nat := k / max 1 i.indexCells.length

/-- Where a writer's element lies. -/
def State.writerLoc (s : State) (c : Nat) (i : Cur) (k : Nat) (idx : List Nat) : Loc :=
  (s.slotView c i 0 (i.writerCell k)).at_ (idx.set i.axis (i.writerPos k))

/-- What one slot's element is sent as: the chosen writer's bits, or this node's own duplicates combined (R133, R134). -/
def State.rputValue (s : State) (c : Nat) (i : Cur) (f : Nat) (ks : List Nat) (idx : List Nat) (seed : Nat) : Nat × BitVec 5 :=
  let bits := fun (k : Nat) => s.readLoc (s.writerLoc c i k idx)
  if i.combine < 3 ∨ ks.length = 1 then (bits (ks.getLastD 0), 0)
  else encodeElem f .rne false (combineNums i.combine (fmtFloat f) seed (ks.map (fun k => decodeElem f (bits k))))

/-- The slots whose last writer lies in a selected window, each with the writers that count, in order of their last writers: a place that
two slots share ends with the greater position under LAST (R39, R133). -/
def State.rputGroups (s : State) (c : Nat) (i : Cur) (sel : Nat → Bool) : List (Nat × List Nat) :=
  let l := groupSlots (s.rputRecords c i)
  ((List.range (i.positions * i.indexCells.length)).flatMap (fun k =>
    if sel (i.writerPos k / 4096) then l.filter (fun g => decide (g.2.getLast? = some k)) else [])).map (fun g =>
    if i.combine = 1 then (g.1, [pickWriter 1 s.free g.1 g.2]) else g)

/-- The runs of one slot with the greatest position among its writers, its sticky bits. -/
def State.rputRuns (s : State) (c : Nat) (i : Cur) (d : TDesc) (blk : Nat) (g : Nat × List Nat) (seed : Nat) : List (Stretch × Nat) × BitVec 5 :=
  let vals := (sliceIndices d.exts i.axis g.1).zipIdx.map (fun e => (d.globalBit e.1, s.rputValue c i d.f g.2 e.1 (seed + 2 * g.2.length * e.2)))
  let runs := runsOf true blk (fmtBits d.f) (vals.map (fun e => ⟨e.1, e.2.1⟩))
  (runs.map (fun p => (p, i.writerPos (g.2.getLastD 0))), vals.foldl (fun f e => f ||| e.2.2) 0)

/-- Every run of the selected windows, the sticky bits of this node's own combines, and how many free values they may use. -/
def State.rputAll (s : State) (c : Nat) (i : Cur) (d : TDesc) (blk : Nat) (sel : Nat → Bool) : List (Stretch × Nat) × BitVec 5 × Nat :=
  (s.rputGroups c i sel).foldl (fun a g =>
    let r := s.rputRuns c i d blk g (s.free + (i.slotExts 2).getD i.axis 0 + 1 + a.2.2)
    (a.1 ++ r.1, a.2.1 ||| r.2, a.2.2 + 2 * g.2.length * prodNat ((d.exts).set i.axis 1))) ([], 0, 0)

/-- The window in which a writer's element is read: the first of those that read a broadcast element (R35). -/
def Cur.sourceWindow (i : Cur) (at_ : List Nat) : Nat := match i.descAt 0 with
  | some d => (d.once at_).getD i.axis 0
  | none => at_.getD i.axis 0

/-- The reads of the indices and of the selected writers' slices. -/
def State.rputReads (s : State) (c : Nat) (i : Cur) (sel : Nat → Bool) : List Access :=
  s.indexReads c i sel ++ (s.rputGroups c i sel).flatMap (fun g => g.2.flatMap (fun k =>
    (sliceIndices (i.slotExts 0) i.axis (i.writerPos k)).map (fun idx =>
      { cell := i.windowCell (i.writerCell k) i.positions (i.writerPos k)
        part := (windowPart (i.writerCell k) (i.sourceWindow (idx.set i.axis (i.writerPos k))), 0), loc := s.writerLoc c i k idx })))

/-- The phase of an RPUT that sends, after those of R136 that combine its own duplicates. -/
def Cur.sendPhase (i : Cur) : Nat := if i.combine = 0 then 5 else 4

/-- The use of scratch in the phases from `lo` up to `hi` (R127, R147, R305). -/
def State.routePhases (s : State) (c : Nat) (i : Cur) (lo hi : Nat) : State :=
  let n := (s.rputRecords c i).length
  (List.range' lo (hi - lo)).foldl (fun t p => (i.scratchUse n p).foldl (fun t u => t.scratchPass c i u) t) s

/-- The selected windows of an RPUT. -/
def State.rputWindows (s : State) (c : Nat) (i : Cur) (sel : Nat → Bool) (done : State → State) : State :=
  match i.descAt 2 with
  | none => done s
  | some d =>
    let (led, blk, _) := i.ledgerOf 2
    let (runs, flags, used) := s.rputAll c i d blk sel
    let parts := runs.flatMap (fun p => (s.copiesOf (p.1.entry led blk)).map (fun e => (p, e)))
    match s.ledgerFault (parts.map (·.2)).eraseDups with
    | some code => s.stopFault c { fabFault code with slot := some 3 }
    | none =>
      let s1 := s.applyMoved c i { Moved.none with
        flags := flags, reads := s.rputReads c i sel, used := used + (i.slotExts 2).getD i.axis 0 }
      finishSent c (s1.sendAll (parts.map (fun p t => t.sendRun c i true d.f blk i.combine p.1.2 p.1.1 p.2))) done

/-- This node's own duplicates end the instruction before any WRITE is sent (R305, R137). -/
def State.rputFault (s : State) (c : Nat) (i : Cur) : Option FaultRec :=
  match s.gatherFault c i 2 (fun _ => true) with
  | some f => some f
  | none =>
    let recs := s.rputRecords c i
    let full := overfull recs i.cells.length
    let twice := if i.combine = 0 then (groupSlots recs).filter (fun g => decide (1 < g.2.length)) else []
    if !full.isEmpty then some { runFault 2 with cell := s.reporter (full.map i.rankOf) }
    else if !twice.isEmpty then some { aliasFault 2 with cell := s.reporter (twice.map (fun g => i.rankOf (g.1 % max 1 i.cells.length))) }
    else none

/-! ## RESHARD -/

/-- A source block is this node's and this context's part (R304). -/
def State.ownsBlock (s : State) (c e : Nat) : Bool := match s.lookup e with
  | .ok o => decide (o.node = s.fab.addr ∧ o.ctx = c)
  | .error _ => false

/-- Source blocks, by number, that the context sends, of those selected. -/
def State.blocksToSend (s : State) (c led n : Nat) (sel : Nat → Bool) : List Nat :=
  (List.range n).filter (fun b => sel b && s.ownsBlock c (led + b))

/-- The elements of one source block with their places in the destination and their bits. -/
def State.blockItems (s : State) (a b : TDesc) (blk num : Nat) (w : Nat × Nat) (e : WinEntry) (base : Nat) : List Item :=
  ((indices a.exts).filter (fun idx => decide (a.globalBit idx / 8 / blk = num))).map (fun idx =>
    let g := a.globalBit idx
    ⟨b.globalBit idx, s.readLoc ⟨.stack w e e.current, base + (g / 8 - num * blk), g % 8, fmtBits a.f⟩⟩)

/-- A source block whose window is not resident: the instruction halts there (R51, R420; DEDUCED, log 96). -/
def State.sourceAway (s : State) (c : Nat) (i : Cur) (num entry : Nat) : State × FaultRec :=
  let w := match s.lookup entry with
    | .ok o => some o.window
    | .error _ => none
  (s.setHead c { i with pos := [num], halted := true, phase := .ready, pins := [] }, { residencyFault with slot := some 0, win := w })

/-- One source block: read once through Crossway and sent. -/
def State.sendBlock (s : State) (c : Nat) (i : Cur) (a b : TDesc) (num : Nat) : Sent :=
  let (sled, sblk, _) := i.ledgerOf 0
  let (dled, dblk, _) := i.ledgerOf 2
  match s.ownerCheck false (sled + num) 0 sblk sblk (s.homeOf (sled + num)) 0 with
  | .fail code => .error (if code = fcResidency then s.sourceAway c i num (sled + num) else (s, { fabFault code with slot := some 0 }))
  | .hold => .ok s
  | .ok oc w base =>
    let e := s.winEff oc w
    let runs := runsOf true dblk (fmtBits b.f) (s.blockItems a b sblk num (oc, w) e base)
    let parts := runs.flatMap (fun p => (s.copiesOf (p.entry dled dblk)).map (fun x => (p, x)))
    match s.ledgerFault (parts.map (·.2)).eraseDups with
    | some code => .error (s, { fabFault code with slot := some 3 })
    | none =>
      let g := touchWhole ((List.range (sblk / 64)).map (fun k => e.xlate e.current (base + 64 * k)))
      let s1 := ((s.missEntries oc [w] (.fetch c i.n 2 5)).ask
        { write := false, by_ := .instr c, slice := s.sliceOf c, window := some (oc, w) } g).addBytes c (granBytes g)
      s1.sendAll (parts.map (fun p t => t.sendRun c i true b.f dblk 0 0 p.1 p.2))

/-- A source entry that cannot be resolved: it is DIVERGENT, or neither copy is intact (R260, R300). One that is not VALID names no node. -/
def State.sourceFault (s : State) (led n : Nat) : Option Nat :=
  (List.range n).findSome? (fun b => match s.lookup (led + b) with
    | .error code => if code ≠ fcOwnerMiss ∨ s.ledgerOff then some code else none
    | .ok _ => none)

/-- The selected source blocks. -/
def State.reshardBlocks (s : State) (c : Nat) (i : Cur) (sel : Nat → Bool) (done : State → State) : State :=
  match i.descAt 0, i.descAt 2 with
  | some a, some b =>
    let (led, _, n) := i.ledgerOf 0
    match s.sourceFault led n with
    | some code => s.stopFault c { fabFault code with slot := some 1 }
    | none => finishSent c (s.sendAll ((s.blocksToSend c led n sel).map (fun k t => t.sendBlock c i a b k))) done
  | _, _ => done s

/-! ## The instructions -/

/-- A source block of a RESHARD lies in a window that a flip holds (R242). -/
def State.blocksHeld (s : State) (c : Nat) (i : Cur) : Bool :=
  let (led, _, n) := i.ledgerOf 0
  i.is opReshard && (s.blocksToSend c led n (fun _ => true)).any (fun b => match s.lookup (led + b) with
    | .ok o => s.flipHold o.ctx [o.window]
    | .error _ => false)

/-- The walker has a losing copy to rewrite before the instruction's entries are resolved (R300), or a flip holds a source. -/
def State.fabricWaits (s : State) (c : Nat) (i : Cur) : Bool :=
  i.isFabric && !i.anyEmpty && ((s.nextRewrite ((s.missedLines i).map (·.2))).isSome || s.blocksHeld c i)

/-- Destinations an index fault or a failed check leaves undefined: those of an RGET (R131). -/
def State.fabricDrop (s : State) (c : Nat) (i : Cur) : State := (if i.is opRget then s.scrambleWrites c i else s).bump 1

/-- What ends a fabric instruction before it moves data: an abort that was decided (R307), index faults (R125), this node's own
duplicates. -/
def State.fabricFault (s : State) (c : Nat) (i : Cur) (sel : Nat → Bool) : Option FaultRec :=
  if (s.ctx c).gen.member = .aborted then some (fabFault fcGenAborted)
  else if i.is opRget then s.gatherFault c i 0 sel
  else if i.is opRput then s.rputFault c i
  else none

/-- Its fault stops the instruction; GEN_ABORTED is raised once. -/
def State.fabricStop (s : State) (c : Nat) (i : Cur) (f : FaultRec) : State :=
  if f.code = fcGenAborted then (s.updGen c (fun g => { g with member := .idle })).stopFault c f
  else (s.fabricDrop c i).stopFault c f

/-- The part of the instruction that the numbers of its windows or source blocks select. -/
def State.fabricPart (s : State) (c : Nat) (i : Cur) (sel : Nat → Bool) (done : State → State) : State :=
  if i.is opRget then s.rgetWindows c i sel done
  else if i.is opRput then s.rputWindows c i sel done
  else s.reshardBlocks c i sel done

/-- Lowest window or block not complete (R148, R420); none of an RPUT that halted before it sent. -/
def Cur.fabricPos (i : Cur) : Nat :=
  if i.is opReshard then i.pos.getD 0 0 else if i.is opRput ∧ i.pos.getD 0 0 < i.sendPhase then 0 else i.pos.getD 1 0

/-- The selected part of the work, and what follows it. -/
def State.fabricDo (s : State) (c : Nat) (i : Cur) (sel : Nat → Bool) (done : State → State) : State := match s.fabricFault c i sel with
  | some f => s.fabricStop c i f
  | none => (s.walkAll i).fabricPart c i sel done

def State.fabricMove (s : State) (c : Nat) (i : Cur) : State :=
  s.fabricDo c i (fun w => decide (i.fabricPos ≤ w)) (fun t =>
    (if i.is opRput then t.routePhases c i (i.pos.getD 0 0) i.sendPhase else t).moved c i)

/-- A fabric instruction first has its Ledger entries resolved: a losing copy is rewritten in a locked sequence of the walker, for which
it waits, unless a host STOP ends the wait (R205, R300). -/
def State.fabricBegin (s : State) (c op : Nat) : State := match s.readyHead c op .ready with
  | none => s
  | some i =>
    if !s.fabricWaits c i then s.withSetup c op (fun t j => t.fabricMove c j)
    else if (s.ctx c).run.stopReq then s.stopCtx c 1 0 i.halted
    else match s.nextRewrite ((s.missedLines i).map (·.2)) with
      | some (k, l) => if s.walkerFree k then s.lockRewrite k l (some (c, i.n)) none else s
      | none => s

/-- RGET (R179, R305). -/
def execRget (c : Fin 64) (s : State) : Host.Outcome State Fault Refusal :=
  .next (s.fabricBegin c opRget)

/-- RPUT (R179, R305). -/
def execRput (c : Fin 64) (s : State) : Host.Outcome State Fault Refusal :=
  .next (s.fabricBegin c opRput)

/-- RESHARD (R179, R304). -/
def execReshard (c : Fin 64) (s : State) : Host.Outcome State Fault Refusal :=
  .next (s.fabricBegin c opReshard)

/-- The windows or source blocks that are sent at a halt: those below the lowest one that is not, and those the list names above it. An RPUT
that adds to what its owners hold, or takes the greater or less of them, sends none of these twice (R148; DEDUCED, log 138). -/
def Cur.sentParts (i : Cur) (progress : List Nat) (w : Nat) : Bool :=
  decide (i.fabricPos ≤ w) && (decide (w < progress.headD 0)
    || (!(i.is opRput && decide (3 ≤ i.combine)) && (progress.drop 1).contains w))

/-- Halting: RGET saves its lowest window that is not complete, RESHARD its lowest source block. An RPUT, whose list begins with its phase,
saves that too (R305, R420). -/
def State.haltFabric (s : State) (c : Nat) (i : Cur) (progress : List Nat) : State :=
  if i.is opRput then
    let from_ := i.pos.getD 0 0
    let ph := max from_ (min i.sendPhase (progress.headD 0))
    let rest := progress.drop 1
    if ph < i.sendPhase then (s.routePhases c i from_ ph).setHead c { i with pos := [ph, if ph < 2 then 0 else rest.headD 0] }
    else s.fabricDo c i (i.sentParts rest) (fun t =>
      (t.routePhases c i from_ ph).setHead c { i with pos := [ph, max i.fabricPos (rest.headD 0)] })
  else
    let low := max i.fabricPos (progress.headD 0)
    s.fabricDo c i (i.sentParts progress) (fun t => t.setHead c { i with pos := if i.is opReshard then [low] else [0, low] })

end Sys2Proof.Machine
end

