-- ==== Sys2Proof/Machine/FabricGen.lean ====
section
/-!
DEFINITION. Fabric-wide generations (R306 to R311): the coordinator's record of a group, the members' side, and the messages
between them. Every message names its group by GID in ENTRY (DEDUCED, log 53).
-/
namespace Sys2Proof.Machine

def gidOf (f : Frame) : BitVec 16 := BitVec.ofNat 16 f.hdr.entry

/-! ## The coordinator (R307) -/

def State.coordGet (s : State) (g : BitVec 16) : Option Coord := s.fab.coord.find? (fun x => decide (x.gid = g))

def State.coordPut (s : State) (x : Coord) : State :=
  let l := s.fab.coord
  let new_ := if l.any (fun y => decide (y.gid = x.gid)) then l.map (fun y => if y.gid = x.gid then x else y) else l ++ [x]
  { s with fab := { s.fab with coord := new_ } }

/-- A message to one member: the context it joined with, FGEN, STATUS and the last committed generation. -/
def State.tellMember (s : State) (x : Coord) (op : Nat) (fgen : BitVec 32) (status last : Nat) (m : Nat × Nat) : State :=
  s.emit (s.mkFrame op (BitVec.ofNat 20 m.1) m.2 fgen 0 status 0 (packW2 x.gid.toNat last 0) 0 [])

def State.tellAll (s : State) (x : Coord) (op : Nat) (fgen : BitVec 32) (status last : Nat) : State :=
  x.joins.foldl (fun t m => t.tellMember x op fgen status last m) s

/-- The generation a decision on the record names; 0 while it has none. -/
def Coord.named (x : Coord) : BitVec 32 := if x.forming then 0 else x.fgen

/-- The decision, sent to every member that has joined. -/
def State.decide_ (s : State) (x : Coord) (commit : Bool) : State :=
  let y := { x with decided := some commit, lastCommitted := if commit then x.fgen else x.lastCommitted }
  (s.coordPut y).tellAll y opGenDecide x.named (if commit then 0 else fcGenAborted) 0

/-- The last join has come: FGEN is set and GEN_OPEN sent. -/
def State.openAll (s : State) (x : Coord) : State :=
  let y := { x with fgen := x.fgen + 1, forming := false, votes := [] }
  (s.coordPut y).tellAll y opGenOpen y.fgen 0 (x.lastCommitted.toNat % 2 ^ 30)

/-- A record of a group that forms its next generation. -/
def Coord.next (x : Coord) (members : Nat) : Coord :=
  { x with members := members, joins := [], votes := [], forming := true, decided := none }

def State.coordRoom (s : State) : Bool := decide ((s.fab.coord.filter (fun y => y.decided.isNone)).length < 64)

/-- The record a join belongs to: one that is forming, or a new forming. A node coordinates at most 64 groups (R306). -/
def State.joinRecord (s : State) (g : BitVec 16) (members : Nat) : Option Coord := match s.coordGet g with
  | some x => if x.decided.isNone then (if x.forming then some x else none) else if s.coordRoom then some (x.next members) else none
  | none => if s.coordRoom then some ⟨g, members, [], [], 0, 0, true, none⟩ else none

/-- GEN_JOIN: each member counts once; joins that disagree in MEMBERSM1 end in an abort. -/
def State.genJoin (s : State) (f : Frame) : State :=
  let members := f.hdr.boff % 2 ^ 20 + 1
  let who := (f.hdr.src.toNat, f.hdr.ctx.toNat)
  match s.joinRecord (gidOf f) members with
  | none => s
  | some x =>
    let y := { x with joins := if x.joins.contains who then x.joins else x.joins ++ [who] }
    if x.members ≠ members then s.decide_ y false
    else if y.joins.length = y.members then s.openAll y
    else s.coordPut y

def execGenJoin (p : Ingress) (f : Frame) (s : State) : Host.Outcome State Fault Refusal :=
  .next (s.deliver p opGenJoin f (fun t => t.genJoin f))

/-- GEN_VOTE: the last one decides commit. -/
def State.genVote (s : State) (f : Frame) : State :=
  let who := (f.hdr.src.toNat, f.hdr.ctx.toNat)
  match s.coordGet (gidOf f) with
  | none => s
  | some x =>
    if x.decided.isSome ∨ x.forming ∨ x.fgen ≠ f.hdr.fgen ∨ !x.joins.contains who then s
    else
      let y := { x with votes := if x.votes.contains who then x.votes else x.votes ++ [who] }
      if y.votes.length = y.members then s.decide_ y true else s.coordPut y

def execGenVote (p : Ingress) (f : Frame) (s : State) : Host.Outcome State Fault Refusal :=
  .next (s.deliver p opGenVote f (fun t => t.genVote f))

/-- GEN_ABORT_REQ before the decision: of the generation FGEN names, or with FGEN 0 of the one being formed (R308). -/
def State.genAbortReq (s : State) (f : Frame) : State := match s.coordGet (gidOf f) with
  | none => s
  | some x => if x.decided.isSome ∨ (f.hdr.fgen ≠ 0 ∧ f.hdr.fgen ≠ x.named) then s else s.decide_ x false

def execGenAbortReq (p : Ingress) (f : Frame) (s : State) : Host.Outcome State Fault Refusal :=
  .next (s.deliver p opGenAbortReq f (fun t => t.genAbortReq f))

/-! ## The members (R307, R308, R310) -/

/-- The member context of a group whose side of the generation is one of those given. -/
def State.memberOf (s : State) (g : BitVec 16) (ok : CtxGen → Bool) : Option Nat :=
  (List.range 64).find? (fun c => decide (s.gid c = g) && ok (s.ctx c).gen)

/-- GEN_OPEN: the generation is open in the member and its GEN retires; WRITEs held for it go on, Ledger updates that wait are deferred
(R299). -/
def State.memberOpen (s : State) (c : Nat) (f : Frame) : State := match s.waitHead c opGen with
  | none => s
  | some i =>
    let s1 := s.updGen c (fun g => { g with
      isOpen := true, fab := true, writeSet := [], member := .open_, fgen := f.hdr.fgen, lastFgen := BitVec.ofNat 32 f.hdr.boff
      stale := false, staleOpen := none })
    (s1.retireHead c i).retryHeld.deferLedger

/-- A GEN_OPEN that may be that of a generation the member has given up: the first to come while that is not decided, and its repetitions.
The fresh join takes that of any other generation (R308; DEDUCED, log 53). -/
def CtxGen.givenUp (g : CtxGen) (fgen : BitVec 32) : Bool := g.stale && decide (g.staleOpen.getD fgen = fgen)

/-- A first GEN_OPEN after a give-up answers the fresh join all the same, where the abandoned generation never opened and its decision was
lost; the frame does not tell, and the answer is free (DEDUCED, log 53). -/
def State.answersJoin (s : State) (c : Nat) : Bool :=
  decide ((s.ctx c).gen.member = .joining) && (s.ctx c).gen.staleOpen.isNone && decide (Config.draw s.free % 2 = 1)

/-- The GEN_OPEN of an abandoned generation is discarded. -/
def State.genOpened (s : State) (f : Frame) : State :=
  match s.memberOf (gidOf f) (fun g => g.givenUp f.hdr.fgen && (decide (g.member = .joining) || decide (g.member = .idle))) with
  | some c =>
    (if s.answersJoin c then s.memberOpen c f else s.updGen c (fun g => { g with staleOpen := some f.hdr.fgen })).bump 1
  | none => match s.memberOf (gidOf f) (fun g => decide (g.member = .joining)) with
    | some c => s.memberOpen c f
    | none => s

def execGenOpen (p : Ingress) (f : Frame) (s : State) : Host.Outcome State Fault Refusal :=
  .next (s.deliver p opGenOpen f (fun t => t.genOpened f))

/-- The commit decision at a voted member; a host abort held until now loses (R310). -/
def State.memberCommit (s : State) (c : Nat) : State :=
  let s0 := s.updGen c (fun g => { g with asked := [] })
  let s1 := if (s.ctx c).gen.abortBit then s0.genResult c 2 else s0
  match s1.waitHead c opCommit with
  | some i => s1.commitDecided c i
  | none => s1.updGen c (fun g => { g with member := .committed })

/-- Requests of the context under a generation that is over. -/
def State.dropTxns (s : State) (c : Nat) (fgen : BitVec 32) : State :=
  ((s.fab.txns.filter (fun t => decide (t.ctx = c ∧ t.frame.hdr.fgen = fgen))).foldl (fun t x => t.endTxn x.txn)
    { s with fab := { s.fab with waiting := s.fab.waiting.filter (fun t => !decide (t.ctx = c ∧ t.frame.hdr.fgen = fgen)) } })

/-- What a member meets after an abort decision: its moving fabric instruction or waiting COMMIT raises GEN_ABORTED; if it has neither,
the next of them does, but for a RESHARD that had stopped already and that RUN restarts (R307). -/
def State.raiseAborted (s : State) (c : Nat) : State :=
  let r := (s.ctx c).run
  let later := s.updGen c (fun g => { g with member := .aborted, abortAt := if r.st = .stopped then some r.head else none })
  match s.head c with
  | some i =>
    if s.active c ∧ i.isFabric ∧ i.phase ≠ .ready then s.stopFault c (fabFault fcGenAborted)
    else if s.active c ∧ i.is opCommit ∧ i.phase = .waiting then s.stopFault c genAborted
    else later
  | none => later

/-- The abort decision at a member with the generation open. -/
def State.memberAbort (s : State) (c : Nat) : State :=
  let g := (s.ctx c).gen
  let s1 := ((s.dropTxns c g.fgen).updGen c (fun g => { g with asked := [] })).releaseGen c 3
  let s2 := if g.abortBit then s1.genResult c 1 else s1
  (s2.raiseAborted c).retryHeld

/-- The abort decision at a member that waits at GEN: the generation counts as opened and already aborted, and GEN retires. -/
def State.joinAbort (s : State) (c : Nat) : State := match s.waitHead c opGen with
  | some i => (((s.releaseGen c 3).updGen c (fun g => { g with member := .aborted, abortAt := none })).retireHead c i).retryHeld
  | none => (s.updGen c (fun g => { g with member := .idle })).retryHeld

/-- Nodes whose contexts are members of the group: the coordinator's, and every owner's that the Ledger names (R309). -/
def State.groupNodes (s : State) (c : Nat) : List (BitVec 20) :=
  let owners := if s.ledgerOff then [] else (List.range (2 ^ 24)).filterMap (fun e => match s.lookup e with
    | .ok o => some o.node
    | .error _ => none)
  (s.coordOf c :: owners).eraseDups.filter (fun n => decide (n ≠ s.fab.addr))

/-- A message of a member to the group's nodes. -/
def State.memberFrame (s : State) (c op status : Nat) (n : BitVec 20) : Frame :=
  s.mkFrame op n c (s.ctx c).gen.fgen 0 status 0 (packW2 (s.gid c).toNat 0 0) 0 []

/-- A voted member finds no decision: it decides abort and tells every member (R311). -/
def State.decideAbort (s : State) (c : Nat) : State :=
  ((s.groupNodes c).foldl (fun t n => t.emit (s.memberFrame c opGenDecide fcGenAborted n)) s).memberAbort c

/-- An abort at a voted member that has asked: the coordinator's is the decision; another member's says that it holds none, and the last
of them decides (R311). -/
def State.answered (s : State) (c : Nat) (src : BitVec 20) : State :=
  let l := (s.ctx c).gen.asked
  if !l.contains src ∨ src = s.coordOf c then s.memberAbort c
  else
    let s1 := s.updGen c (fun g => { g with asked := l.filter (fun n => decide (n ≠ src)) })
    if (l.filter (fun n => decide (n ≠ src))).isEmpty then s1.decideAbort c else s1

/-- A generation that a member has given up is decided: its messages are over (R308). -/
def State.staleOver (s : State) (g : BitVec 16) : Option State :=
  (s.memberOf g (fun x => x.stale && (decide (x.member = .joining) || decide (x.member = .idle)))).map (fun c =>
    s.updGen c (fun x => { x with stale := false, staleOpen := none }))

/-- GEN_DECIDE. One of the generation that a member held before it joined again is not of the one it waits for (R307). -/
def State.genDecided (s : State) (f : Frame) : State :=
  let commit := decide (f.hdr.status = 0)
  let holds := fun (g : CtxGen) => (decide (g.member = .open_) || decide (g.member = .voted)) && decide (g.fgen = f.hdr.fgen)
  if commit then match s.memberOf (gidOf f) (fun g => holds g && decide (g.member = .voted)) with
    | some c => s.memberCommit c
    | none => (s.staleOver (gidOf f)).getD s
  else match s.memberOf (gidOf f) holds with
    | some c => s.answered c f.hdr.src
    | none => match s.staleOver (gidOf f) with
      | some t => t
      | none => match s.memberOf (gidOf f) (fun g => decide (g.member = .joining) && (decide (f.hdr.fgen = 0) || decide (f.hdr.fgen ≠ g.fgen))) with
        | some c => s.joinAbort c
        | none => s

def execGenDecide (p : Ingress) (f : Frame) (s : State) : Host.Outcome State Fault Refusal :=
  .next (s.deliver p opGenDecide f (fun t => t.genDecided f))

/-! ## Timeouts and inquiries (R307, R308, R311) -/

/-- GEN_JOIN_RESEND (R308). -/
def execGenJoinResend (c : Fin 64) (s : State) : Host.Outcome State Fault Refusal :=
  .next (match s.waitHead c opGen with
    | some _ => if (s.ctx c).gen.member = .joining then s.toCoord c opGenJoin 0 else s
    | none => s)

/-- The wait at GEN is over: the coordinator is told and GEN raises TIMEOUT with no effect (R308). Where the request has no way to the
coordinator, which then forms the generation on, a fresh join belongs to that generation (DEDUCED, log 53). -/
def State.joinTimeout (s : State) (c : Nat) : State := match s.waitHead c opGen with
  | some _ =>
    let sent := s.emit1 (s.coordFrame c opGenAbortReq 0)
    ((sent.getD s).updGen c (fun g => { g with
      member := .idle, stale := g.stale || sent.isSome, staleOpen := if g.stale then g.staleOpen else none })).stopFault c { code := fcTimeout, stage := 5 }
  | none => s

/-- A voted member asks every member it can reach for the decision. With none to reach, or when GEN_TIMEOUT passes again without an
answer that decides, no member holds one, and it decides abort (R311; DEDUCED, log 54). -/
def State.inquire (s : State) (c : Nat) : State :=
  let m := (s.groupNodes c).foldl (fun a n => match a.1.emit1 (s.memberFrame c opGenInquire 0 n) with
    | some t => (t, a.2 ++ [n])
    | none => a) (s, [])
  if m.2.isEmpty ∨ !(s.ctx c).gen.asked.isEmpty then s.decideAbort c
  else m.1.updGen c (fun g => { g with asked := m.2 })

/-- GEN_TIMEOUT of a coordinated group (after the first join without all joins, or the first vote without all votes), or of a
member context. -/
def State.genTimeout (s : State) (coord : Bool) (k : Nat) : State :=
  if coord then match s.coordGet (BitVec.ofNat 16 k) with
    | none => s
    | some x =>
      if x.decided.isSome ∨ (x.forming ∧ x.joins.isEmpty) ∨ (!x.forming ∧ x.votes.isEmpty) then s else s.decide_ x false
  else
    let m := (s.ctx k).gen.member
    if 64 ≤ k then s
    else if m = .joining then s.joinTimeout k
    else if m = .voted then s.inquire k
    else s

def execGenTimeoutExpire (coord : Bool) (k : Nat) (s : State) : Host.Outcome State Fault Refusal := .next (s.genTimeout coord k)

/-- The answer to an inquiry. -/
def State.answerInquiry (s : State) (f : Frame) (commit : Bool) : State :=
  s.emit (s.mkFrame opGenDecide f.hdr.src f.hdr.ctx.toNat f.hdr.fgen 0 (if commit then 0 else fcGenAborted) 0 (packW2 f.hdr.entry 0 0) 0 [])

/-- GEN_INQUIRE: the decision a coordinator or a member holds; without one, the generation is aborted here (R311). -/
def State.genInquire (s : State) (f : Frame) : State :=
  let n := f.hdr.fgen
  match s.coordGet (gidOf f) with
  | some x =>
    if x.fgen = n ∧ !x.forming then match x.decided with
      | some b => s.answerInquiry f b
      | none => s.decide_ x false
    else s.answerInquiry f (decide (x.lastCommitted = n))
  | none =>
    match s.memberOf (gidOf f) (fun g => g.isOpen && g.fab && decide (g.fgen = n)) with
    | some c =>
      if (s.ctx c).gen.member = .committed then s.answerInquiry f true
      else (s.memberAbort c).answerInquiry f false
    | none => s.answerInquiry f ((s.memberOf (gidOf f) (fun g => decide (g.lastFgen = n))).isSome)

def execGenInquire (p : Ingress) (f : Frame) (s : State) : Host.Outcome State Fault Refusal :=
  .next (s.deliver p opGenInquire f (fun t => t.genInquire f))

/-! ## Time -/

/-- The instruction at HEAD waits at cell setup. -/
def State.inSetup (s : State) (c : Nat) : Bool := match s.head c with
  | some i => s.running c && decide (i.phase = .ready) && i.fault.isNone && !s.fetchWaits c i.n && !i.cells.isEmpty
      && (s.dropDense c i).setupWaits c i
  | none => false

/-- Datapath cycles in a CONTROL cycle. -/
def cyclesPerTick : Nat := 2

/-- The cycles of those waits are counted (R379). -/
def State.countWaits (s : State) : State :=
  ((List.range 64).filter s.inSetup).foldl (fun t c => t.updCtx c (fun x => { x with perfSetup := satAdd x.perfSetup cyclesPerTick })) s

/-- Single-bit errors that the slices correct in a CONTROL cycle: how many is free (R366, R379; DEDUCED, log 89). -/
def State.correctErrors (s : State) : State :=
  ((List.range s.nSlices).foldl (fun t n => t.updSlice n (fun x => { x with eccCorr := satAdd x.eccCorr (Config.draw (s.free + n)) })) s).bump
    s.nSlices

/-- An empty queue: a CONTROL cycle passes, and requests at this owner that are being resolved, or held, are looked at again. -/
def State.idle (s : State) : State := if s.pwr.step = 0 then s else s.correctErrors.tick.countWaits.resolveOn.retryHeld

end Sys2Proof.Machine
end

