-- ==== Sys2Proof/Machine/Switch.lean ====
section
/-!
DEFINITION. Halt points (R420): the part of its work an instruction has done when it reaches one, and the halted instruction.
-/
namespace Sys2Proof.Machine

/-- The work up to the halt point, by the instruction's row of R420; `halted` says whether it had halted before. -/
def State.haltPart (halted : Bool) (s : State) (c : Nat) (i : Cur) (progress : List Nat) : State :=
  if i.is opTload then State.haltTload halted s c i progress
  else if i.is opTstore then s.haltTstore c i progress
  else if i.isFabric then s.haltFabric c i progress
  else if i.is opGather then
    match s.gatherFault c i 0 (i.doneWindows progress) with
    | some f => s.gatherFail c i f
    | none => s.haltIndex c i progress
  else if i.is opScatter ∨ i.is opBucket ∨ i.is opSortk ∨ i.combinePath then s.haltIndex c i progress
  else s.haltBlocks c i progress

/-- Unless its work has stopped it, the instruction now stands halted. -/
def State.haltAfter (s : State) (c : Nat) : State := match s.head c with
  | some i => if s.running c then s.haltHead c i else s
  | none => s

/-- HALT_POINT_REACHED; `progress` says how far each cell, or the instruction, has come. The transfers of an instruction between its
phases check the parity of what they read (R365). -/
def State.haltPoint (s : State) (c : Nat) (progress : List Nat) : State := match s.head c with
  | none => s
  | some i =>
    if !(s.running c && i.fault.isNone && i.hasHaltPoint && s.haltAsked c i) then s
    else match i.phase with
      | .moving => (match s.upsetSlice i with
        | some n => ((s.scrambleWrites c i).scrambleBuffers c i).upsetAtUse c i n
        | none => (State.haltPart false s c i progress).haltAfter c)
      | .ready => if s.fabricWaits c i then s else s.setupThen c i.op true (fun t j => (State.haltPart i.halted t c j progress).haltAfter c)
      | _ => s

def execHaltPointReached (c : Fin 64) (progress : List Nat) (s : State) : Host.Outcome State Fault Refusal :=
  .next (s.haltPoint c progress)

end Sys2Proof.Machine
end

