-- ==== Sys2Proof/Machine/Service.lean ====
section
/-!
DEFINITION. Service commands of a slice and the self-test (R366 to R372), the Taster (R376, R377) and the message port (R411).
-/
namespace Sys2Proof.Machine

/-! ## Service commands (R369) -/

/-- The home cell of a position is fenced, whoever serves the position. -/
def Slice.fenceHome (x : Slice) (pos : Nat) : Slice := { x with fenced := x.fenced ||| BitVec.ofNat 64 (2 ^ pos) }

/-- The home cell is back in service, and serves the position unless a spare does. -/
def Slice.openHome (x : Slice) (pos : Nat) : Slice :=
  let m := ~~~(BitVec.ofNat 64 (2 ^ pos))
  { x with fenced := x.fenced &&& m, lost := x.lost &&& m }

/-- A cell that firmware fences while the slice's region is broken stays fenced when an image mends the region (R352, R369). -/
def Slice.keepFenced (x : Slice) (pos : Nat) : Slice := { x with broke := x.broke.map (fun o => (o.1 ||| BitVec.ofNat 64 (2 ^ pos), o.2)) }

def Slice.setSpare (x : Slice) (k : Nat) (st : BitVec 2) : Slice := { x with spares := x.spares.set k ⟨st, 0⟩ }

def Slice.spareState (x : Slice) (k : Nat) : Nat := match x.spares[k]? with
  | some sp => sp.st.toNat
  | none => 0

/-- A context owns the cell that serves a position, or an instruction engages it. -/
def State.cellUsed (s : State) (g : Nat) : Bool := !(s.usersOf g).isEmpty

/-- Every frame of the region's retained copy that lies in the retain area recomputes to its golden signature; copies that the
ROM or the configuration controller hold are taken as whole (DESIGN CHOICE, log 33). -/
def State.retainedWhole (s : State) (n : Nat) : Bool :=
  (s.region n).source ≠ 3 || (s.region n).frames.all (fun e => s.retainedOk n e.1 [])

/-- The slice is re-imaged from its retained copy (R371), or the command fails. -/
def State.reimage (s : State) (n : Nat) : State := if s.retainedWhole n ∧ !(s.region n).broken then (s.readRetained n).beginDrain n true else s.svcResult n 3

/-- OP FENCE: the cell that serves the position is fenced with cause 0. -/
def State.svcFence (s : State) (n : Nat) : State :=
  let p := (s.slice n).svcCell.toNat
  let g := 64 * n + p
  if s.cellUsed g then s.svcResult n 2
  else if s.cellDown g then (s.updSlice n (fun x => x.keepFenced p)).svcResult n 1
  else (((s.emptyCell g).updSlice n (fun x => x.fence p))).svcResult n 1

/-- OP SUBST. -/
def State.svcSubst (s : State) (n : Nat) : State :=
  let x := s.slice n
  if x.isDown x.svcCell.toNat ∧ x.spareState x.svcSpare.toNat = 0 ∧ s.cfg.st = 0 ∧ !(s.region n).broken then
    (s.updSlice n (fun x => { x with svcGo := true })).reimage n
  else s.svcResult n 2

/-- OP RETURN: the self-test of the home cell begins, unless a context uses the serving cell (R367, R369). -/
def State.svcReturn (s : State) (n : Nat) : State :=
  let g := 64 * n + (s.slice n).svcCell.toNat
  if s.cellUsed g ∧ !s.cellDown g then s.svcResult n 2 else s.updSlice n (fun x => { x with svcGo := true })

/-- OP TEST: the self-test of a READY or FENCED spare begins. -/
def State.svcTest (s : State) (n : Nat) : State :=
  let x := s.slice n
  let k := x.svcSpare.toNat
  if x.spareState k = 0 ∨ x.spareState k = 2 then s.updSlice n (fun x => { x.setSpare k 3 with svcGo := true })
  else s.svcResult n 2

/-- A write of SLC_SERVICE; ignored while GO is set. Reserved operations are refused (DEDUCED, log 55). -/
def State.serviceWrite (s : State) (n : Nat) (v : Word) : State :=
  let w := v.toNat
  if s.nSlices ≤ n ∨ (s.slice n).svcGo then s
  else
    let s1 := s.updSlice n (fun x => { x with
      svcCell := BitVec.ofNat 6 (field w 15 10), svcSpare := BitVec.ofNat 2 (field w 9 8), svcOp := BitVec.ofNat 3 (field w 3 1)
      svcResult := if bitAt w 0 then 0 else x.svcResult })
    if bitAt w 0 then match field w 3 1 with
      | 0 => s1.svcFence n
      | 1 => s1.svcSubst n
      | 2 => s1.svcReturn n
      | 3 => s1.svcTest n
      | _ => s1.svcResult n 2
    else s1

/-- SERVICE_FENCE. -/
def execServiceFence (n : Fin 12) (v : Word) (s : State) : Host.Outcome State Fault Refusal := .next (s.served (·.serviceWrite n v))
/-- SUBST. -/
def execSubst (n : Fin 12) (v : Word) (s : State) : Host.Outcome State Fault Refusal := .next (s.served (·.serviceWrite n v))
/-- CELL_RETURN. -/
def execCellReturn (n : Fin 12) (v : Word) (s : State) : Host.Outcome State Fault Refusal := .next (s.served (·.serviceWrite n v))
/-- SPARE_TEST. -/
def execSpareTest (n : Fin 12) (v : Word) (s : State) : Host.Outcome State Fault Refusal := .next (s.served (·.serviceWrite n v))

/-! ## Self-test (R370) -/

/-- The re-imaging of a slice's service command is under way. -/
def State.reimaging (s : State) (n : Nat) : Bool := match s.cfg.act with
  | some a => a.service && decide (a.region = n)
  | none => false

/-- The self-test of a RETURN has ended: on a pass the home cell's fence clears and it is swapped back from a spare that serves
its position, which waits until CFG_LOAD_STATUS.STATE is IDLE (DEDUCED, log 56); a cell that fails is fenced with cause 7. A swap back is
refused where a context uses the cell that serves (R367). -/
def State.returnTested (s : State) (n : Nat) (pass : Bool) : State :=
  let p := (s.slice n).svcCell.toNat
  let swap := ((s.slice n).spareOf p).isSome
  if swap then
    (if !pass then (s.updSlice n (fun x => x.fenceHome p)).svcResult n 3
    else if s.cfg.st ≠ 0 then s
    else if s.cellUsed (64 * n + p) then s.svcResult n 2
    else (s.updSlice n (fun x => x.openHome p)).reimage n)
  else ((s.emptyCell (64 * n + p)).updSlice n (fun x => if pass then x.openHome p else x.fenceHome p)).svcResult n (if pass then 1 else 3)

/-- SELF_TEST_DONE. -/
def State.selfTest (s : State) (n : Nat) (pass : Bool) : State :=
  let x := s.slice n
  if !x.svcGo ∨ s.reimaging n then s
  else if x.svcOp = 3 then (s.updSlice n (fun x => x.setSpare x.svcSpare.toNat (if pass then 0 else 2))).svcResult n (if pass then 1 else 3)
  else if x.svcOp = 2 then s.returnTested n pass
  else s

def execSelfTestDone (n : Fin 12) (pass : Bool) (s : State) : Host.Outcome State Fault Refusal := .next (s.selfTest n pass)

/-! ## The Taster (R376, R377) -/

def State.tasterOn (s : State) : Bool := bitAt s.glb.tasterCfg.toNat 63
def State.tasterStack (s : State) : Nat := field s.glb.tasterCfg.toNat 57 54
def State.tasterBase (s : State) : Nat := field s.glb.tasterCfg.toNat 53 18 * 4096
def State.tasterRecords (s : State) : Nat := max 1 (field s.glb.tasterCfg.toNat 15 0)

/-- Bytes of a record. -/
def State.tasterSize (s : State) : Nat := match s.build with
  | .t12 => 0x8000
  | .t4 => 0x4000

def State.tasterRingOk (s : State) : Bool :=
  decide (s.stackState s.tasterStack = 1) && decide (s.tasterBase + s.tasterRecords * s.tasterSize ≤ s.capBytes s.tasterStack)

/-- ENABLE clears, and BOUNDS is recorded. -/
def State.tasterStop (s : State) : State :=
  ({ s with glb := { s.glb with tasterCfg := s.glb.tasterCfg &&& 0x7FFFFFFFFFFFFFFF } }).globalFault fcBounds 5 0 0

/-- A write of GLB_TASTER_CFG, while ENABLE is 0 or clearing it (DEDUCED, log 57). -/
def State.tasterWrite (s : State) (v : Word) : State :=
  let on := bitAt v.toNat 63
  if s.tasterOn ∧ on then s
  else
    let s1 := { s with glb := { s.glb with tasterCfg := v &&& 0xFFFFFFFFFFFCFFFF } }
    if on then
      let s2 := { s1 with glb := { s1.glb with tSample := 0, tNext := 0, tSkipped := false, tNoHistory := true, tBeats := s1.beat.count, tHeld := 0 } }
      if s2.tasterRingOk then s2 else s2.tasterStop
    else s1

/-- Requests of one channel that the stack controller holds. -/
def StackPort.outNow (p : StackPort) (write : Bool) : Nat :=
  ((p.late ++ p.reqs).filter (fun r => decide (r.write = write) && r.tag.isSome)).length

/-- Pieces that wait at the target. -/
def StackPort.waitNow (p : StackPort) : Nat := p.wait.length

/-- Depth of one queue. -/
def State.queueDepth (s : State) (g q : Nat) : Nat :=
  let x := s.queue g q
  if x.st = .closed then 0xFFFF else if x.dir then x.staged.length else ((s.cell g).chan q).held

def State.tasterFlags (s : State) : Nat :=
  boolNat s.glb.tNoHistory 0 + boolNat (!s.time.valid) 1 + boolNat s.glb.tSkipped 2 + boolNat s.clk.coast 3 + boolNat s.clk.throttled 4

/-- A record. -/
def State.tasterRecord (s : State) : List Byte :=
  let g := s.glb
  let ports := (List.range 12).flatMap (fun k => natLe 2 ((s.stackPort k).outNow false) ++ natLe 2 ((s.stackPort k).outNow true))
  let targets := (List.range 40).flatMap (fun t => natLe 2 (s.stackPort t).waitNow)
  let fab := (List.range 18).flatMap (fun p => (List.range 4).flatMap (fun v => natLe 2 (listGet (s.port p).rxUsed v)))
  let ctxs := (List.range 64).flatMap (fun c => natLe 2 (s.ctx c).sems.waiters.length)
  let head := natLe 8 (if s.time.valid then s.time.now.toNat else 0) ++ natLe 8 s.beat.count.toNat ++ natLe 8 g.tSample.toNat
    ++ natLe 4 (if g.tNoHistory then 0 else (s.beat.count - g.tBeats).toNat)
    ++ natLe 4 (if g.tNoHistory then 0 else min 0xFFFFFFFF g.tHeld.toNat) ++ natLe 4 s.tasterFlags ++ List.replicate 28 0
  let fixed := head ++ ports ++ targets ++ fab ++ ctxs ++ List.replicate 560 0
  let queues := (List.range s.nCells).flatMap (fun c => (List.range 16).flatMap (fun q => natLe 2 (s.queueDepth c q)))
  fixed ++ queues ++ List.replicate (s.tasterSize - 0x400 - 32 * s.nCells) 0

/-- TASTER_SAMPLE. A sample that finds the record before it not written is skipped. -/
def State.tasterSample (s : State) : State :=
  if !s.ready ∨ !s.tasterOn then s
  else if !s.tasterRingOk then s.tasterStop
  else if s.outstanding .taster then { s with glb := { s.glb with tDropped := true, tSkipped := true } }
  else
    let k := s.tasterStack
    let a := s.tasterBase + s.glb.tNext.toNat * s.tasterSize
    let s1 := (s.setStack k ((s.stack k).write a s.tasterRecord)).ask { write := true, by_ := .taster } (granRun k a (a + s.tasterSize))
    { s1 with glb := { s1.glb with
      tSample := s.glb.tSample + 1, tNext := BitVec.ofNat 16 ((s.glb.tNext.toNat + 1) % s.tasterRecords), tNoHistory := false
      tSkipped := false, tBeats := s.beat.count, tHeld := 0 } }

def execTasterSample (s : State) : Host.Outcome State Fault Refusal := .next s.tasterSample

/-! ## The message port (R411) -/

/-- The port is idle: CONTROL is in reset (R404), or the test access port holds the pins (R416). -/
def State.msiIdle (s : State) : Bool := bitAt s.clk.islReset.toNat 13 || s.tap.pinsHeld

/-- MSI_SEND: one message leaves, and an owed vector takes its place. -/
def State.msiSend (s : State) : State :=
  if s.msiIdle then s
  else match s.glb.msiQ with
    | [] => s
    | _ :: rest =>
      let s1 := { s with glb := { s.glb with msiQ := rest } }
      match s1.glb.owed with
      | [] => s1
      | v :: more => ({ s1 with glb := { s1.glb with owed := more } }).sendMsg v

def execMsiSend (s : State) : Host.Outcome State Fault Refusal := .next s.msiSend

end Sys2Proof.Machine
end

