-- ==== Sys2Proof/Machine/Tap.lean ====
section
/-!
DEFINITION. The test access port (R416, R417): its instruction, boundary and bypass registers, and what an instruction does to the
functional pins; and the instruments behind IJTAG_ACCESS.
-/
namespace Sys2Proof.Machine

/-- Codes of the instructions. -/
def tapExtest : BitVec 6 := 0x00
def tapSample : BitVec 6 := 0x01
def tapIdcode : BitVec 6 := 0x02
def tapClamp : BitVec 6 := 0x08
def tapIjtag : BitVec 6 := 0x10
def tapBypass : BitVec 6 := 0x3F

/-- The instruction selects the bypass register. -/
def selectsBypass (ir : BitVec 6) : Bool := decide (ir = tapClamp) || decide (ir = tapBypass)

/-- The instruction captures the pins in the boundary register. -/
def capturesPins (ir : BitVec 6) : Bool := decide (ir = tapExtest) || decide (ir = tapSample)

/-- An instruction is in the instruction register. EXTEST and CLAMP take the pins out of functional use, until RESET_N. What the pins carry
as they are captured is free, and the bypass register captures 0 (PRESUMED, log 8). -/
def State.tapLoad (s : State) (ir : BitVec 6) : State :=
  let t := { s.tap with
    ir := ir, pinsHeld := s.tap.pinsHeld || decide (ir = tapExtest) || decide (ir = tapClamp)
    preloaded := s.tap.preloaded || decide (ir = tapSample)
    bypass := s.tap.bypass && !selectsBypass ir }
  if capturesPins ir then ({ s with tap := { t with boundary := Config.draw s.free } }).bump 1 else { s with tap := t }

/-- The identification register. -/
def State.idcode (s : State) : BitVec 32 :=
  let part := match s.build with
    | .t12 => 0x5E01
    | .t4 => 0x5E02
  BitVec.ofNat 32 (s.fuses.rev.toNat % 16 * 2 ^ 28 + part * 2 ^ 12 + s.fuses.manufacturer.toNat * 2 + 1)

/-- EXTEST. -/
def execExtest (s : State) : Host.Outcome State Fault Refusal := .next (s.tapLoad tapExtest)
/-- SAMPLE/PRELOAD. -/
def execSamplePreload (s : State) : Host.Outcome State Fault Refusal := .next (s.tapLoad tapSample)
/-- IDCODE. -/
def execIdcode (s : State) : Host.Outcome State Fault Refusal := .next (s.tapLoad tapIdcode)
/-- CLAMP. -/
def execClamp (s : State) : Host.Outcome State Fault Refusal := .next (s.tapLoad tapClamp)
/-! ## Instruments (R417) -/

/-- A physical cell is fenced. -/
def Slice.physFenced (x : Slice) (k : Nat) : Bool := if k < 64 then bitAt x.fenced.toNat k else x.spareState (k - 64) = 2

/-- The position that a physical cell serves, if it serves one. -/
def Slice.serves (x : Slice) (k : Nat) : Option Nat :=
  if k < 64 then (if bitAt x.fenced.toNat k || (x.spareOf k).isSome then none else some k)
  else (List.range 64).find? (fun p => decide (x.spareOf p = some (k - 64)))

/-- A physical cell that failed its self-test is out of service. -/
def Slice.fencePhys (x : Slice) (k : Nat) : Slice := match x.serves k with
  | some p => x.fence p
  | none => if k < 64 then x.fenceHome k else x.setSpare (k - 64) 2

/-- A cell instrument may act: the cell is fenced, or the unit is in PARK. -/
def State.cellIdle (s : State) (n k : Nat) : Bool := (s.slice n).physFenced k || decide (s.clk.pwState = 2)

/-- The memory self-test of a physical cell has run (R370): the memory of a position that the cell serves is undefined, and a cell that
failed is fenced with cause 7. -/
def State.cellTested (s : State) (n k : Nat) (pass : Bool) : State :=
  let s1 := match (s.slice n).serves k with
    | some p => s.emptyCell (64 * n + p)
    | none => s
  if pass then s1 else s1.updSlice n (fun x => x.fencePhys k)

/-- The instrument shows something. -/
def State.show (s : State) (r : TestReading) : State := { s with tap := { s.tap with reading := some r } }

/-- What the access does behind the network. A cell in service reports busy, and nothing is done. The last codeword of a lane comes back
through the receiver's correction (PRESUMED, log 112); what a crossing holds is free, as no command ends within one (DEDUCED, log 91). -/
def State.instrument (s : State) (item : Instrument) : State := match item with
  | .network => s
  | .cellTest n k pass =>
    if s.nSlices ≤ n.val then s
    else if s.cellIdle n k then (s.cellTested n k pass).show (.cell pass) else s.show .busy
  | .fuses => s.show (.fuses s.fuses)
  | .clocks => let on := fun j => decide (s.clk.hist.getD j 0 = 0xF); s.show (.clocks (on 0) (on 1) (on 2))
  | .loopback p l => s.show (.loopback ((rsCorrect (tabGet LaneFec.empty (s.port p).fec l).word).map fecBlocks))
  | .fifos => (s.show (.fifos (Config.draw s.free))).bump 1

/-- What the test data behind IJTAG_ACCESS select: no command carries them, and each is a free choice of its own (DEDUCED, log 91). -/
def State.reached (s : State) : Instrument :=
  let v := fun k => Config.draw (s.free + k)
  match v 0 % 6 with
  | 0 => .network
  | 1 => .cellTest (Fin.ofNat 12 (v 1)) (Fin.ofNat 68 (v 2)) (decide (v 3 % 2 = 1))
  | 2 => .fuses
  | 3 => .clocks
  | 4 => .loopback (Fin.ofNat 18 (v 1)) (Fin.ofNat 8 (v 2))
  | _ => .fifos

/-- IJTAG_ACCESS: the network is selected, and what the data reach acts. -/
def execIjtagAccess (s : State) : Host.Outcome State Fault Refusal := .next (((s.tapLoad tapIjtag).bump 4).instrument s.reached)
/-- BYPASS, and every code without a name. -/
def execBypass (s : State) : Host.Outcome State Fault Refusal := .next (s.tapLoad tapBypass)

/-- TEST_LOGIC_RESET: IDCODE is selected (PRESUMED, log 8); the unit is not reset. -/
def execTestLogicReset (s : State) : Host.Outcome State Fault Refusal :=
  .next { s with tap := { s.tap with ir := tapIdcode, preloaded := false } }

end Sys2Proof.Machine
end

