-- ==== Sys2Proof/Machine/RegisterMap.lean ====
section
/-!
DEFINITION. REGISTER_WRITE: a write of any register by its offset in the aperture (R11, R381 to R401), field by field by access
type. A register that has rows of its own acts as those rows do.
-/
namespace Sys2Proof.Machine

/-! ## Halves (R382) -/

/-- Bits of the W1S and W1C fields of a register, by offset: a half that a 4 B write does not carry writes 0 to them. -/
def oneBits (a : Nat) : Word :=
  if a < 0x100000 then match a with
    | 0x0008 => 0x2
    | 0x0040 => 0x3
    | 0x0090 => 0xC
    | 0x00C8 => 0x4
    | _ => 0
  else if a < 0x200000 then match a - 0x100000 with
    | 0x0000 => 0xC0000
    | 0x0010 => 0xFFFFFFFF
    | 0x0020 => 0x3
    | 0x0118 => 0x10000000000
    | _ => 0
  else if a < 0x300000 then match a - 0x200000 with
    | 0x0000 => 0xD
    | 0x0028 => 0x400000000000000E
    | 0x0030 => 0x1
    | 0x0038 => 0x8000000000000000
    | _ => 0
  else if a < 0x400000 then match a - 0x300000 with
    | 0x0008 => 0x1
    | 0x0018 => 0x1
    | _ => 0
  else if a < 0x800000 then
    if a - 0x400000 = 0x0028 then 0x1 else if 0x100 ≤ a - 0x400000 ∧ a - 0x400000 < 0x200 then 0x2 else 0
  else if a < 0xC00000 then (if (a - 0x800000) % 0x40000 = 0x20 then 0x1 else 0)
  else match (a - 0xC00000) % 0x10000 with
    | 0x0010 => 0x300
    | 0x0018 => 0x3
    | 0x0038 => 0xC000000000000000
    | 0x0060 => 0xC
    | 0x0088 => 0x3
    | 0x00E0 => 0x1
    | 0x0100 => 0x1F
    | _ => 0

/-- Which halves of a register a write carries. -/
structure Halves where
  lo : Bool
  hi : Bool
deriving DecidableEq, Repr

/-- The 8 B value that a 4 B write of one half amounts to. -/
def State.mergeHalf (s : State) (a : Nat) (upper : Bool) (v : Word) : Word :=
  let keep := BitVec.ofNat 64 (s.readReg a) &&& ~~~(oneBits a)
  if upper then (v <<< 32) ||| (keep &&& 0xFFFFFFFF) else (v &&& 0xFFFFFFFF) ||| (keep &&& 0xFFFFFFFF00000000)

/-- `w` with the halves that a write carries replaced by those of `v`. -/
def Halves.over (h : Halves) (w v : Word) : Word :=
  (if h.hi then v &&& 0xFFFFFFFF00000000 else w &&& 0xFFFFFFFF00000000) ||| (if h.lo then v &&& 0xFFFFFFFF else w &&& 0xFFFFFFFF)

/-- Bits of `w` that are 1 in `v` are cleared. -/
def clearOnes (w v mask : Word) : Word := w &&& ~~~(v &&& mask)

/-! ## Pages -/

/-- Global page (R385). -/
def State.writeGlobal (s : State) (a : Nat) (v : Word) : State :=
  match a with
  | 0x0008 => { s with glb := { s.glb with badAcc := s.glb.badAcc && !bitAt v.toNat 1 } }
  | 0x0040 => { s with glb := { s.glb with fault := clearOnes s.glb.fault v 0x3 } }
  | 0x0080 => { s with glb := { s.glb with msiAddr := v &&& 0xFFFFFFFFFFFFFFFC } }
  | 0x0088 => s.msiEnableWrite v
  | 0x0090 => s.glbIrqWrite v
  | 0x00C0 => s.tasterWrite v
  | 0x00C8 => { s with glb := { s.glb with tDropped := s.glb.tDropped && !bitAt v.toNat 2 } }
  | 0x0100 => { s with glb := { s.glb with beatHeld := v } }
  | _ => s

/-- A write of TIME_BEAT_CFG; ENABLE = 0 abandons an edge that is held (R227). -/
def State.beatWrite (s : State) (v : Word) : State :=
  let b := { s.beat with cfg := v &&& 0x800FFFFF000FFFFF }
  { s with beat := if bitAt v.toNat 63 then b else { b with held := false, notReady := [] } }

/-- Clocks and time page (R390). A 4 B write of TIME_SET replaces one half of TIME_NOW (R382; DEDUCED, log 92). -/
def State.writeTime (s : State) (a : Nat) (v : Word) (h : Halves) : State :=
  match a with
  | 0x0000 => { s with clk := { s.clk with
      pllStop := s.clk.pllStop && !bitAt v.toNat 19, coastEv := s.clk.coastEv && !bitAt v.toNat 18 } }
  | 0x0008 => s.trimWrite v
  | 0x0010 => s.islandWrite v
  | 0x0018 => s.dvfsWrite v
  | 0x0020 => s.pwrWrite v
  | 0x0108 => s.timeSet (h.over s.time.now v)
  | 0x0110 => if h.hi then s.upportWrite v else { s with time := { s.time with cfg := v &&& timeCfgMask } }
  | 0x0118 => { s with time := { s.time with stepped := s.time.stepped && !bitAt v.toNat 40 } }
  | 0x0120 => s.syncWrite v
  | 0x0140 => s.beatWrite v
  | _ => match regAt a 0x0200 s.nPorts with
    | some p => { s with time := { s.time with portDelay := tabSet 0 s.time.portDelay p (v.setWidth 32) } }
    | none => s

/-- Configuration page (R391). -/
def State.writeConfig (s : State) (a : Nat) (v : Word) : State :=
  match a with
  | 0x0000 => s.loadWrite v
  | 0x0010 => { s with cfg := { s.cfg with timing := v } }
  | 0x0020 => if s.cfg.st = 0 then { s with cfg := { s.cfg with retain := v &&& 0x8F00FFFFFFFFFFFF } } else s
  | 0x0028 => s.fwWrite v
  | 0x0030 => { s with cfg := { s.cfg with upValid := s.cfg.upValid && !bitAt v.toNat 0 } }
  | 0x0038 => s.keysWrite v
  | _ => s

/-- What XBAR_PRIO_m_k holds after a write: fields of absent paths keep their stored value (R271). -/
def State.prioWord (s : State) (m k : Nat) (v : Word) : Word :=
  BitVec.ofNat 64 (sumNat ((List.range 16).map (fun j =>
    (if s.hasPath m (16 * k + j) ∧ 16 * k + j < 40 then field v.toNat (4 * j + 3) (4 * j) else field (prioReset m).toNat (4 * j + 3) (4 * j)) * 2 ^ (4 * j))))

/-- Crossway page (R393); XBAR_STACK_CMD is apart. -/
def State.writeCrossway (s : State) (a : Nat) (v : Word) : State :=
  match a with
  | 0x0000 => { s with xb := { s.xb with cfg := v &&& 0x0000FFFFFFFFFFFF } }
  | 0x0008 => { s with xb := { s.xb with lockValid := s.xb.lockValid && !bitAt v.toNat 0 } }
  | 0x0020 => { s with xb := { s.xb with count := BitVec.ofNat 16 (field v.toNat 63 48) } }
  | _ => match regAt a 0x0100 s.nSlices with
    | some k => { s with xb := { s.xb with errs := tabSet 0 s.xb.errs k (v &&& 0xFFFFFFFFFFFF0000) } }
    | none => match regAt a 0x1000 90 with
      | some r => { s with xb := { s.xb with
          prio := tabSet 0 s.xb.prio r (s.prioWord (r / 3) (r % 3) v ^^^ prioReset (r / 3)) } }
      | none => s

/-- Fabric page (R394). ADDR_VALID is set by a write that carries ADDR; FAB_GRP takes a write while its context is STOPPED. -/
def State.writeFabric (s : State) (a : Nat) (v : Word) (h : Halves) : State :=
  match a with
  | 0x0000 => { s with fab := { s.fab with cfg := v &&& 0xFFFFFFFF0003FFFF } }
  | 0x0010 =>
    let t := s.nodeWrite v
    if h.hi then t else { t with fab := { t.fab with addrValid := s.fab.addrValid } }
  | 0x0018 => s.ledgerPlace v
  | 0x0020 => { s with fab := { s.fab with ledgerSet := v } }
  | 0x0028 => s.ledgerCmd v
  | _ => match regAt a 0x0100 s.nPorts, regAt a 0x0200 s.nPorts, regAt a 0x0800 64, regAt a 0x8000 4096 with
    | some p, _, _, _ => s.portWrite p v
    | _, some p, _, _ => s.updPort p (fun x => { x with laneErr := v })
    | _, _, some c, _ =>
      if (s.ctx c).run.st = .stopped then { s with fab := { s.fab with grp := tabSet 0 s.fab.grp c (v &&& 0xFFFFFFFFFFFFFF00) } } else s
    | _, _, _, some k => s.routeWrite k v
    | none, none, none, none => s

/-- Slice pages (R396). -/
def State.writeSlice (s : State) (n a : Nat) (v : Word) : State :=
  if s.nSlices ≤ n then s
  else match a with
    | 0x0000 => s.updSlice n (fun x => { x with pairTimeout := v.setWidth 16 })
    | 0x0020 => s.serviceWrite n v
    | 0x0028 => s.updSlice n (fun x => { x with eccCorr := v })
    | _ => s

/-- A field that takes a write only while the context is STOPPED (R384). -/
def State.whenStopped (s : State) (c : Nat) (f : CtxCfg → CtxCfg) : State :=
  if (s.ctx c).run.st = .stopped then s.updCtx c (fun x => { x with cfg := f x.cfg }) else s

def State.setCfg (s : State) (c : Nat) (f : CtxCfg → CtxCfg) : State := s.updCtx c (fun x => { x with cfg := f x.cfg })

/-- CTX_CONTROL (R184): both bits at once do nothing. -/
def State.controlWrite (s : State) (c : Nat) (v : Word) : State :=
  match bitAt v.toNat 0, bitAt v.toNat 1 with
  | true, false => s.runCtx c
  | false, true => s.hostStop c
  | _, _ => s

/-- CTX_GEN_CMD (R249): both bits at once do nothing. -/
def State.genCmdWrite (s : State) (c : Nat) (v : Word) : State :=
  match bitAt v.toNat 0, bitAt v.toNat 1 with
  | true, false => s.hostAbort c
  | false, true => s.replay c
  | _, _ => s

/-- Fields of CTX_SEMBIND and CTX_WINFOLLOW. -/
def bindMask : Word := 0x8000FFFF000003FF

/-- Context pages (R397). -/
def State.writeCtx (s : State) (c a : Nat) (v : Word) (h : Halves) : State :=
  match a with
  | 0x0000 => if h.lo then s.doorbell c v else s
  | 0x0008 => if h.lo then s.headWrite c v else s
  | 0x0010 => s.updRun c (fun r => { r with
      dbReject := r.dbReject && !bitAt v.toNat 9, semReject := r.semReject && !bitAt v.toNat 8 })
  | 0x0018 => s.controlWrite c v
  | 0x0020 => s.whenStopped c (fun x => { x with rcpBase := v &&& 0x03FFFFFFFFFFFFC0 })
  | 0x0028 => s.whenStopped c (fun x => { x with rcpSize := v.setWidth 5 })
  | 0x0030 => s.wintabWrite c v
  | 0x0038 => s.winSync c v
  | 0x0040 => s.whenStopped c (fun x => { x with save := v &&& 0x03FFFFFFFFFFFFFF })
  | 0x0048 => s.setCfg c (fun x => { x with sched := v &&& 0x0000FFFF0000000F })
  | 0x0050 => s.setCfg c (fun x => { x with waitBound := v.setWidth 32 })
  | 0x0058 => if h.lo then s.semSignal c v else s
  | 0x0060 => s.ctxIrqWrite c v
  | 0x0088 => s.genCmdWrite c v
  | 0x00E0 => s.updCtx c (fun x => { x with flt := { x.flt with stream := clearOnes x.flt.stream v 0x1 } })
  | 0x0100 => s.updCtx c (fun x => { x with cvtFlags := x.cvtFlags &&& ~~~(v.setWidth 5) })
  | 0x0108 => s.updCtx c (fun x => { x with amax := v.setWidth 32 })
  | 0x0110 => s.setCfg c (fun x => { x with srSeed := v })
  | 0x0140 => s.updCtx c (fun x => { x with perfInstr := v })
  | 0x0148 => s.updCtx c (fun x => { x with perfBytes := v })
  | 0x0150 => s.updCtx c (fun x => { x with perfSetup := v })
  | _ => match regAt a 0x0200 16, regAt a 0x0280 16, regAt a 0x2000 1024 with
    | some b, _, _ => s.whenStopped c (fun x => { x with binds := tabSet 0 x.binds b (v &&& bindMask) })
    | _, some f, _ => s.whenStopped c (fun x => { x with follow := tabSet 0 x.follow f (v &&& bindMask) })
    | _, _, some p => s.semWrite c p v
    | none, none, none => s

/-! ## The aperture -/

/-- A write of the register at an 8 B-aligned offset. -/
def State.writeReg (s : State) (a : Nat) (v : Word) (h : Halves) : State :=
  if a < 0x100000 then s.writeGlobal a v
  else if a < 0x200000 then s.writeTime (a - 0x100000) v h
  else if a < 0x300000 then s.writeConfig (a - 0x200000) v
  else if a < 0x400000 then s.writeCrossway (a - 0x300000) v
  else if a < 0x800000 then s.writeFabric (a - 0x400000) v h
  else if a < 0xC00000 then s.writeSlice ((a - 0x800000) / 0x40000) ((a - 0x800000) % 0x40000) v
  else s.writeCtx ((a - 0xC00000) / 0x10000) ((a - 0xC00000) % 0x10000) v h

/-- XBAR_STACK_CMD (R276): with GO, the command; a reserved OP is refused (DEDUCED, log 55). -/
def State.stackCmd (s : State) (v : Word) : Host.Outcome State Fault Refusal :=
  if bitAt v.toNat 0 then match field v.toNat 2 1 with
    | 0 => execStackRetire v s
    | 1 => execStackReturn v s
    | _ => if s.xb.go then .next { s with xb := { s.xb with result := 2, entry := 0 } } else .next ((s.setCmd v).cmdResult 2 0)
  else .next (s.setCmd v)

/-- REGISTER_WRITE. From step 2 of R336 on the port answers: three registers, and all of them from step 3 on. -/
def execRegisterWrite (addr : BitVec 24) (size4 : Bool) (v : Word) (s : State) : Host.Outcome State Fault Refusal :=
  let a := addr.toNat
  let base := a / 8 * 8
  if !s.cpTakes then .next s
  else if a % (if size4 then 4 else 8) ≠ 0 then .next { s with glb := { s.glb with badAcc := true } }
  else if !s.ready ∧ !earlyReg base then .next s
  else
    let upper := decide (a % 8 = 4)
    let w := if size4 then s.mergeHalf base upper v else v
    if base = 0x300018 then s.stackCmd w
    else .next (s.writeReg base w ⟨!size4 || !upper, !size4 || upper⟩)

end Sys2Proof.Machine
end

