-- ==== Sys2Proof/Machine/Dispatch.lean ====
section
/-!
DEFINITION. One arm for each command: a direct call of its meaning.
-/
namespace Sys2Proof.Machine

def exec (i : Instr) (s : State) : Host.Outcome State Fault Refusal :=
  match i with
  -- control port
  | .doorbell c v => Sys2Proof.Machine.execDoorbell c v s
  | .rcpHeadWrite c v => Sys2Proof.Machine.execRcpHeadWrite c v s
  | .run c => Sys2Proof.Machine.execRun c s
  | .stop c => Sys2Proof.Machine.execStop c s
  | .semWrite c p v => Sys2Proof.Machine.execSemWrite c p v s
  | .semSignal c v => Sys2Proof.Machine.execSemSignal c v s
  | .winSync c v => Sys2Proof.Machine.execWinSync c v s
  | .wintabWrite c v => Sys2Proof.Machine.execWintabWrite c v s
  | .hostAbort c => Sys2Proof.Machine.execHostAbort c s
  | .replay c => Sys2Proof.Machine.execReplay c s
  | .ctxIrqWrite c v => Sys2Proof.Machine.execCtxIrqWrite c v s
  | .glbIrqWrite v => Sys2Proof.Machine.execGlbIrqWrite v s
  | .msiEnableWrite v => Sys2Proof.Machine.execMsiEnableWrite v s
  | .timeSet v => Sys2Proof.Machine.execTimeSet v s
  | .syncInNextWrite v => Sys2Proof.Machine.execSyncInNextWrite v s
  | .upportWrite v => Sys2Proof.Machine.execUpportWrite v s
  | .trimSrcWrite v => Sys2Proof.Machine.execTrimSrcWrite v s
  | .islandSwitch v => Sys2Proof.Machine.execIslandSwitch v s
  | .islandReset v => Sys2Proof.Machine.execIslandReset v s
  | .dvfsRequest v => Sys2Proof.Machine.execDvfsRequest v s
  | .park v => Sys2Proof.Machine.execPark v s
  | .unpark v => Sys2Proof.Machine.execUnpark v s
  | .imageLoad v => Sys2Proof.Machine.execImageLoad v s
  | .activate v => Sys2Proof.Machine.execActivate v s
  | .discard v => Sys2Proof.Machine.execDiscard v s
  | .keysLock v => Sys2Proof.Machine.execKeysLock v s
  | .fwLock v => Sys2Proof.Machine.execFwLock v s
  | .kick v => Sys2Proof.Machine.execKick v s
  | .handoverAck v => Sys2Proof.Machine.execHandoverAck v s
  | .fwRestart v => Sys2Proof.Machine.execFwRestart v s
  | .stackRetire v => Sys2Proof.Machine.execStackRetire v s
  | .stackReturn v => Sys2Proof.Machine.execStackReturn v s
  | .serviceFence n v => Sys2Proof.Machine.execServiceFence n v s
  | .subst n v => Sys2Proof.Machine.execSubst n v s
  | .cellReturn n v => Sys2Proof.Machine.execCellReturn n v s
  | .spareTest n v => Sys2Proof.Machine.execSpareTest n v s
  | .laneRetire p v => Sys2Proof.Machine.execLaneRetire p v s
  | .laneRejoin p v => Sys2Proof.Machine.execLaneRejoin p v s
  | .portRestart p v => Sys2Proof.Machine.execPortRestart p v s
  | .portEnableWrite p v => Sys2Proof.Machine.execPortEnableWrite p v s
  | .ledgerCmdGo v => Sys2Proof.Machine.execLedgerCmdGo v s
  | .nodeAddrWrite v => Sys2Proof.Machine.execNodeAddrWrite v s
  | .badAccess write => Sys2Proof.Machine.execBadAccess write s
  | .registerWrite addr size4 v => Sys2Proof.Machine.execRegisterWrite addr size4 v s
  -- recipe front end
  | .recipeFetch c => Sys2Proof.Machine.execRecipeFetch c s
  | .decodeValidate c => Sys2Proof.Machine.execDecodeValidate c s
  -- recipe instructions
  | .nop c => Sys2Proof.Machine.execNop c s
  | .halt c => Sys2Proof.Machine.execHalt c s
  | .ctxsave c => Sys2Proof.Machine.execCtxsave c s
  | .tload c => Sys2Proof.Machine.execTload c s
  | .tstore c => Sys2Proof.Machine.execTstore c s
  | .tmove c => Sys2Proof.Machine.execTmove c s
  | .trel c => Sys2Proof.Machine.execTrel c s
  | .trans2d c => Sys2Proof.Machine.execTrans2d c s
  | .perm c => Sys2Proof.Machine.execPerm c s
  | .rot c => Sys2Proof.Machine.execRot c s
  | .gather c => Sys2Proof.Machine.execGather c s
  | .scatter c => Sys2Proof.Machine.execScatter c s
  | .bucket c => Sys2Proof.Machine.execBucket c s
  | .sortk c => Sys2Proof.Machine.execSortk c s
  | .cvt c => Sys2Proof.Machine.execCvt c s
  | .reblock c => Sys2Proof.Machine.execReblock c s
  | .amax c => Sys2Proof.Machine.execAmax c s
  | .sopen c => Sys2Proof.Machine.execSopen c s
  | .sblock c => Sys2Proof.Machine.execSblock c s
  | .sclose c => Sys2Proof.Machine.execSclose c s
  | .carousel c => Sys2Proof.Machine.execCarousel c s
  | .swait c => Sys2Proof.Machine.execSwait c s
  | .ssignal c => Sys2Proof.Machine.execSsignal c s
  | .fence c => Sys2Proof.Machine.execFence c s
  | .gen c => Sys2Proof.Machine.execGen c s
  | .commit c => Sys2Proof.Machine.execCommit c s
  | .abort c => Sys2Proof.Machine.execAbort c s
  | .reshard c => Sys2Proof.Machine.execReshard c s
  | .rget c => Sys2Proof.Machine.execRget c s
  | .rput c => Sys2Proof.Machine.execRput c s
  -- execution events
  | .instructionRetire c => Sys2Proof.Machine.execInstructionRetire c s
  | .haltPointReached c progress => Sys2Proof.Machine.execHaltPointReached c progress s
  | .indexPhaseBarrier c => Sys2Proof.Machine.execIndexPhaseBarrier c s
  | .swaitWake c => Sys2Proof.Machine.execSwaitWake c s
  | .waitBoundExpire c => Sys2Proof.Machine.execWaitBoundExpire c s
  | .quantumExpire c => Sys2Proof.Machine.execQuantumExpire c s
  | .contextSwitchOut c g => Sys2Proof.Machine.execContextSwitchOut c g s
  | .contextRestore c g => Sys2Proof.Machine.execContextRestore c g s
  | .flipBegin c => Sys2Proof.Machine.execFlipBegin c s
  | .flipPoint c => Sys2Proof.Machine.execFlipPoint c s
  | .flipComplete c => Sys2Proof.Machine.execFlipComplete c s
  | .catchupCopyDone c w => Sys2Proof.Machine.execCatchupCopyDone c w s
  | .winSyncIdle c => Sys2Proof.Machine.execWinSyncIdle c s
  -- stack ports and Crossway
  | .stackReadResponse isl tag err => Sys2Proof.Machine.execStackReadResponse isl tag err s
  | .stackWriteResponse isl tag err => Sys2Proof.Machine.execStackWriteResponse isl tag err s
  | .stackRequestTimeout isl write tag => Sys2Proof.Machine.execStackRequestTimeout isl write tag s
  | .stackCtrlLost isl => Sys2Proof.Machine.execStackCtrlLost isl s
  | .pieceAgeExpire target idx => Sys2Proof.Machine.execPieceAgeExpire target idx s
  | .lockedSequenceClose m => Sys2Proof.Machine.execLockedSequenceClose m s
  | .lockTimeout m => Sys2Proof.Machine.execLockTimeout m s
  | .eccUncorrectable g cause => Sys2Proof.Machine.execEccUncorrectable g cause s
  -- streams, edge links, beat
  | .streamTokenSend g r => Sys2Proof.Machine.execStreamTokenSend g r s
  | .dataTokenReceive g t => Sys2Proof.Machine.execDataTokenReceive g t s
  | .controlTokenReceive g t => Sys2Proof.Machine.execControlTokenReceive g t s
  | .creditReturn g chan countM1 parityOk => Sys2Proof.Machine.execCreditReturn g chan countM1 parityOk s
  | .pairTimeout g chan => Sys2Proof.Machine.execPairTimeout g chan s
  | .blockComplete c q id => Sys2Proof.Machine.execBlockComplete c q id s
  | .queueClosed g q => Sys2Proof.Machine.execQueueClosed g q s
  | .rateWindowEnd g q => Sys2Proof.Machine.execRateWindowEnd g q s
  | .carouselRotation n q => Sys2Proof.Machine.execCarouselRotation n q s
  | .beatEdge notReady heldCycles heldUs => Sys2Proof.Machine.execBeatEdge notReady heldCycles heldUs s
  | .beatStretchTimeout => Sys2Proof.Machine.execBeatStretchTimeout s
  | .layerAdvance => Sys2Proof.Machine.execLayerAdvance s
  -- power, clocks, time
  | .powerUp caps bootPin => Sys2Proof.Machine.execPowerUp caps bootPin s
  | .unitReset ns => Sys2Proof.Machine.execUnitReset ns s
  | .refclkWindowEnd w => Sys2Proof.Machine.execRefclkWindowEnd w s
  | .oscEdgeTimeout => Sys2Proof.Machine.execOscEdgeTimeout s
  | .coastEnd => Sys2Proof.Machine.execCoastEnd s
  | .pllStop => Sys2Proof.Machine.execPllStop s
  | .islandSwitchDone isl => Sys2Proof.Machine.execIslandSwitchDone isl s
  | .switchWatchdog isl => Sys2Proof.Machine.execSwitchWatchdog isl s
  | .islandResetRelease isl => Sys2Proof.Machine.execIslandResetRelease isl s
  | .dvfsDone steward => Sys2Proof.Machine.execDvfsDone steward s
  | .powerSample dp mem lk => Sys2Proof.Machine.execPowerSample dp mem lk s
  | .sliceAutoGate n => Sys2Proof.Machine.execSliceAutoGate n s
  | .parkDone => Sys2Proof.Machine.execParkDone s
  | .parkExitDone => Sys2Proof.Machine.execParkExitDone s
  | .timeFrameSend p => Sys2Proof.Machine.execTimeFrameSend p s
  | .timeFrameReceive p t => Sys2Proof.Machine.execTimeFrameReceive p t s
  | .timeFrameTimeout => Sys2Proof.Machine.execTimeFrameTimeout s
  | .holdoverExpire => Sys2Proof.Machine.execHoldoverExpire s
  | .syncInEdge highNs => Sys2Proof.Machine.execSyncInEdge highNs s
  | .syncInMissed => Sys2Proof.Machine.execSyncInMissed s
  | .syncOutPulse => Sys2Proof.Machine.execSyncOutPulse s
  -- fabric link and transport
  | .laneReady p l => Sys2Proof.Machine.execLaneReady p l s
  | .laneLost p l => Sys2Proof.Machine.execLaneLost p l s
  | .ack p ackNo cvc cred => Sys2Proof.Machine.execAck p ackNo cvc cred s
  | .nak p head => Sys2Proof.Machine.execNak p head s
  | .probe p uid port build => Sys2Proof.Machine.execProbe p uid port build s
  | .lanemap p map => Sys2Proof.Machine.execLanemap p map s
  | .badFrame p raw => Sys2Proof.Machine.execBadFrame p raw s
  | .retxExpire p => Sys2Proof.Machine.execRetxExpire p s
  | .ackTimer p => Sys2Proof.Machine.execAckTimer p s
  | .probeTimer p => Sys2Proof.Machine.execProbeTimer p s
  | .frameForward p f => Sys2Proof.Machine.execFrameForward p f s
  | .readReq p f => Sys2Proof.Machine.execReadReq p f s
  | .readResp p f => Sys2Proof.Machine.execReadResp p f s
  | .write p f => Sys2Proof.Machine.execWrite p f s
  | .writeAck p f => Sys2Proof.Machine.execWriteAck p f s
  | .genJoin p f => Sys2Proof.Machine.execGenJoin p f s
  | .genOpen p f => Sys2Proof.Machine.execGenOpen p f s
  | .genVote p f => Sys2Proof.Machine.execGenVote p f s
  | .genDecide p f => Sys2Proof.Machine.execGenDecide p f s
  | .genAbortReq p f => Sys2Proof.Machine.execGenAbortReq p f s
  | .genInquire p f => Sys2Proof.Machine.execGenInquire p f s
  | .ledgerSet p f => Sys2Proof.Machine.execLedgerSet p f s
  | .regRd p f => Sys2Proof.Machine.execRegRd p f s
  | .regWr p f => Sys2Proof.Machine.execRegWr p f s
  | .mgmtResp p f => Sys2Proof.Machine.execMgmtResp p f s
  | .reqTimeoutExpire txn => Sys2Proof.Machine.execReqTimeoutExpire txn s
  | .residencyRetry txn => Sys2Proof.Machine.execResidencyRetry txn s
  | .genJoinResend c => Sys2Proof.Machine.execGenJoinResend c s
  | .genTimeoutExpire coord k => Sys2Proof.Machine.execGenTimeoutExpire coord k s
  | .ledgerDeferredApply => Sys2Proof.Machine.execLedgerDeferredApply s
  | .stackJoinOnline isl => Sys2Proof.Machine.execStackJoinOnline isl s
  | .migrationCopyDone => Sys2Proof.Machine.execMigrationCopyDone s
  -- configuration and firmware
  | .bootBundleLoad primary golden => Sys2Proof.Machine.execBootBundleLoad primary golden s
  | .imageDataReceive data endMark => Sys2Proof.Machine.execImageDataReceive data endMark s
  | .signatureCheckDone => Sys2Proof.Machine.execSignatureCheckDone s
  | .portTimeoutExpire => Sys2Proof.Machine.execPortTimeoutExpire s
  | .drainComplete => Sys2Proof.Machine.execDrainComplete s
  | .drainTimeout => Sys2Proof.Machine.execDrainTimeout s
  | .activationComplete => Sys2Proof.Machine.execActivationComplete s
  | .handoverTimeout => Sys2Proof.Machine.execHandoverTimeout s
  | .stewardReloadDone => Sys2Proof.Machine.execStewardReloadDone s
  | .watchdogExpire => Sys2Proof.Machine.execWatchdogExpire s
  | .scrubFrame region frame retained => Sys2Proof.Machine.execScrubFrame region frame retained s
  | .selfTestDone n pass => Sys2Proof.Machine.execSelfTestDone n pass s
  | .tasterSample => Sys2Proof.Machine.execTasterSample s
  | .msiSend => Sys2Proof.Machine.execMsiSend s
  -- test access
  | .extest => Sys2Proof.Machine.execExtest s
  | .samplePreload => Sys2Proof.Machine.execSamplePreload s
  | .idcode => Sys2Proof.Machine.execIdcode s
  | .clamp => Sys2Proof.Machine.execClamp s
  | .ijtagAccess => Sys2Proof.Machine.execIjtagAccess s
  | .bypass => Sys2Proof.Machine.execBypass s
  | .testLogicReset => Sys2Proof.Machine.execTestLogicReset s
  | .clockActivityMonitor tclk osc pll => Sys2Proof.Machine.execClockActivityMonitor tclk osc pll s
  | .respTimeoutRetry c w => Sys2Proof.Machine.execRespTimeoutRetry c w s
  | .reservedOpFrame p f => Sys2Proof.Machine.execReservedOpFrame p f s
  | .readyParityError g => Sys2Proof.Machine.execReadyParityError g s

end Sys2Proof.Machine
end

