-- ==== Sys2Proof/Safety.lean ====
section
/-!
DEFINITION. The terms in which claims are stated: which commands come through the control port, the invariants of the
machine, and what the retirement of an instruction leaves.
-/
namespace Sys2Proof

/-- The rows that are writes at the control port (R381 to R387). -/
def Instr.controlPort : Instr → Bool
  | .doorbell _ _ | .rcpHeadWrite _ _ | .run _ | .stop _ | .semWrite _ _ _ | .semSignal _ _ | .winSync _ _
  | .wintabWrite _ _ | .hostAbort _ | .replay _ | .ctxIrqWrite _ _ | .glbIrqWrite _ | .msiEnableWrite _ | .timeSet _
  | .syncInNextWrite _ | .upportWrite _ | .trimSrcWrite _ | .islandSwitch _ | .islandReset _ | .dvfsRequest _ | .park _
  | .unpark _ | .imageLoad _ | .activate _ | .discard _ | .keysLock _ | .fwLock _ | .kick _ | .handoverAck _
  | .fwRestart _ | .stackRetire _ | .stackReturn _ | .serviceFence _ _ | .subst _ _ | .cellReturn _ _ | .spareTest _ _
  | .laneRetire _ _ | .laneRejoin _ _ | .portRestart _ _ | .portEnableWrite _ _ | .ledgerCmdGo _ | .nodeAddrWrite _
  | .registerWrite _ _ _ => true
  | _ => false

namespace Machine

/-- Every memory of the machine is in its canonical form. -/
def State.MemWf (s : State) : Prop :=
  (∀ e ∈ s.stks, Mem.wf e.2 = true) ∧ ∀ e ∈ s.cells, Mem.wf e.2.mem = true ∧ Mem.wf e.2.opFile = true

/-- One stack port obeys its ordering rule (R262 to R264): no two requests of one channel hold the same tag, and no request is
outstanding while an earlier one, timed out or not, touches a common byte and one of the two writes. -/
def StackPort.Ordered (p : StackPort) : Prop :=
  (p.late ++ p.reqs).Pairwise (fun a b =>
    (b.tag.isSome = true → a.clash b = false) ∧ (a.write = b.write → a.tag.isSome = true → a.tag ≠ b.tag))

def State.PortsOrdered (s : State) : Prop := ∀ k, (s.stackPort k).Ordered

/-- No host STOP and no fault takes effect at the context's next instruction boundary. -/
abbrev State.NothingDue (s : State) (c : Nat) : Prop :=
  (s.ctx c).run.stopReq = false ∧ (s.ctx c).run.pendFault = none
    ∧ ∀ j ∈ ((s.ctx c).cur.drop 1).head?, j.fault = none

/-- HEAD has moved by one: the context is IDLE at the tail and RUNNING before it (R182, R192). -/
abbrev State.HeadMoved (s : State) (c : Nat) (t : State) : Prop :=
  (t.ctx c).run = { (s.ctx c).run with
      head := (s.ctx c).run.head + 1
      st := if (s.ctx c).run.head + 1 = (s.ctx c).run.tail then .idle else .running
      resumable := false }
    ∧ (t.ctx c).cur = (s.ctx c).cur.drop 1

/-- The save area of a context: its window's entry is cached, as RUN leaves it, and follows no other; no two of its bytes lie at one
address; and no tile is larger than its place in a record (R258). -/
def State.SaveAreaSound (s : State) (c : Nat) : Prop :=
  let w := (s.saveAt c).1
  let o := (s.saveAt c).2
  let e := s.winEff c w
  s.follow c w = none ∧ tabGet none (s.ctx c).win.cache w ≠ none ∧ (∀ g k, ((s.cell g).tile k).bytes ≤ 0x4000)
    ∧ ∀ a b, a < s.saveSize → b < s.saveSize → e.xlate e.current (o + a) = e.xlate e.current (o + b) → a = b

/-- Cell setup of the instruction at HEAD ends well, with the entries of its windows held (R42), and it has data to move (R20, R84, R192). -/
abbrev State.Begins (s : State) (c op : Nat) (i : Cur) : Prop :=
  s.readyHead c op .ready = some i ∧ i.anyEmpty = false ∧ (s.dropDense c i).setupWaits c i = false ∧ s.setupCheck c i = none
    ∧ s.upsetSlice i = none ∧ s.resident c i = true ∧ s.missing c i.windows = []

/-- The state in which the data movement starts, and the instruction with its pins. -/
def State.begun (s : State) (c : Nat) (i : Cur) : State × Cur :=
  let b := (s.dropDense c i).setUp c i
  (b.1.recordAll c b.2, b.2)

/-- Outside the tiles that held something, the bytes of the cell are as they were; `y` is the cell afterwards. -/
def Cell.OutsideTiles (x : Cell) (b : Build) (y : Cell) : Prop :=
  ∀ a,
    ((∀ k, k < 32 → (x.tile k).st ≠ .empty → (b.tileAt 0 k).1 = .cell 0 → a < (b.tileAt 0 k).2 ∨ (b.tileAt 0 k).2 + 0x4000 ≤ a) →
      y.mem.get a = x.mem.get a)
    ∧ ((∀ k, k < 32 → (x.tile k).st ≠ .empty → (b.tileAt 0 k).1 = .opFile 0 → a < (b.tileAt 0 k).2 ∨ (b.tileAt 0 k).2 + 0x1000 ≤ a) →
      y.opFile.get a = x.opFile.get a)

/-- A cell, `y` afterwards, of which nothing changes but its queues, its channels and the credits sent. -/
abbrev Cell.SameBut (x y : Cell) : Prop := y = { x with queues := y.queues, chans := y.chans, lastCro := y.lastCro }

/-- The instruction's data movement is over and it stands at HEAD until it retires; its cells belong to the context; HEAD, TAIL
and STATE stay; no other context changes, nor does anything outside contexts, cells, stacks, ports and clock gates. -/
def State.DataMoved (s : State) (c : Nat) (i : Cur) (u : State) : Prop :=
  (∃ k, u.head c = some k ∧ k.phase = .moved ∧ k.word = i.word ∧ k.n = i.n)
    ∧ (∀ g ∈ i.cells, (u.cell g).owner = some c)
    ∧ (u.ctx c).run = { (s.ctx c).run with resumable := false }
    ∧ (∀ d, d ≠ c → u.ctx d = s.ctx d)
    ∧ u.fab = s.fab ∧ u.cfg = s.cfg ∧ u.time = s.time ∧ u.beat = s.beat ∧ u.glb = s.glb ∧ u.slices = s.slices ∧ u.pwr = s.pwr

/-! ## The fabric -/

/-- A frame for this node, with the operation its row names, can be taken: it lies in the node's own loop, or its port is UP and it
carries the SEQ expected. -/
abbrev State.Arrives (s : State) (p : Ingress) (op : Nat) (f : Frame) : Prop :=
  f.hdr.op.toNat = op ∧ s.isLocal f = true ∧ (s.take p f).isSome = true

/-- A frame with the property is on its way: in the node's own loop, or in a port, sent and not yet acknowledged or about to be
sent. -/
def State.Carries (s : State) (good : Frame → Prop) : Prop :=
  ∃ g, good g ∧ (g ∈ s.fab.loop ∨ ∃ q, g ∈ (s.port q).txq ∨ g ∈ (s.port q).replay)

/-- A frame with the property is on its way at one port. -/
abbrev State.CarriesAt (s : State) (q : Nat) (good : Frame → Prop) : Prop :=
  ∃ g, good g ∧ (g ∈ (s.port q).txq ∨ g ∈ (s.port q).replay)

/-- Frames for the node address have somewhere to go. -/
def State.Reaches (s : State) (d : BitVec 20) : Prop :=
  d = s.fab.addr ∨ ∀ h : NetHdr, h.dst = d → (s.routeOf h).isSome = true

/-- What a READ_REQ that its owner serves in state `s` leads to in state `t`: it is read at the stack ports, and its requests carry the
answer with the bytes of the current generation; it waits where a flip holds its window; or it is answered with the code of the check
that it fails. Memory stays. -/
def State.ReadAnswered (s : State) (a : Arrival) (t : State) : Prop :=
  let h := a.frame.hdr
  let check := s.frameCheck a false
  let good := fun (g : Frame) (c w off : Nat) => g.hdr.op = 0x02 ∧ g.hdr.dst = h.src ∧ g.hdr.txn = h.txn
    ∧ g.hdr.status = 0 ∧ g.payload = s.winRead (s.winEff c w) (s.winEff c w).current off h.len
  t.stks = s.stks
  ∧ (∀ c w off, check = .ok c w off → s.ownerHold c w false = false →
      (h.len = 0 → s.Reaches h.src → t.Carries (fun g => good g c w off))
      ∧ (h.len ≠ 0 → ∃ e ∈ t.allReqs, e.2.write = false ∧ ∃ g, e.2.ackTo = some g ∧ good g c w off))
  ∧ (∀ c w off, check = .ok c w off → s.ownerHold c w false = true → t.fab.heldWrites = s.fab.heldWrites ++ [a])
  ∧ (∀ code, check = .fail code → s.Reaches h.src →
      t.Carries (fun g => g.hdr.op = 0x02 ∧ g.hdr.dst = h.src ∧ g.hdr.txn = h.txn ∧ g.hdr.status = BitVec.ofNat 8 code))

/-- What a WRITE that its owner serves in state `s` leads to in state `t`, apart from one that passes the checks and need not wait: one
that a flip, pins or a catch-up hold waits, as does one whose generation is not yet open here; one that fails a check is answered with
its code. None of these changes memory. -/
def State.WriteTurnedAway (s : State) (a : Arrival) (t : State) : Prop :=
  let h := a.frame.hdr
  let check := s.frameCheck a true
  (∀ c w off, check = .ok c w off → h.len ≠ 0 → s.ownerHold c w (decide (h.fgen ≠ 0)) = true →
      t.stks = s.stks ∧ t.fab.heldWrites = s.fab.heldWrites ++ [a])
  ∧ (∀ code, check = .fail code → t.stks = s.stks ∧ (s.Reaches h.src →
      t.Carries (fun g => g.hdr.op = 0x04 ∧ g.hdr.dst = h.src ∧ g.hdr.txn = h.txn ∧ g.hdr.status = BitVec.ofNat 8 code)))
  ∧ (check = .hold → t.stks = s.stks ∧ t.fab.heldWrites = s.fab.heldWrites ++ [a])

/-- What a WRITE that replaces whole bytes leaves, where it passes the checks and need not wait: its payload in the region it goes to,
with its acknowledgement on its requests; where its window has no aside region, every other byte of stack memory stays. -/
def State.WriteLanded (s : State) (a : Arrival) (t : State) : Prop :=
  let h := a.frame.hdr
  ∀ c w off, s.frameCheck a true = .ok c w off →
    s.ownerHold c w (decide (h.fgen ≠ 0)) = false →
    let e := s.winEff c w
    let region := writeRegion e h.fgen
    t.winRead e region off h.len = a.frame.payload
    ∧ (h.len ≠ 0 → ∃ x ∈ t.allReqs, x.2.write = true ∧ ∃ g, x.2.ackTo = some g ∧ g.hdr.op = 0x04
        ∧ g.hdr.dst = h.src ∧ g.hdr.txn = h.txn ∧ g.hdr.status = 0)
    ∧ (e.aside = false → ∀ k x, (∀ j, j < h.len → e.xlate region (off + j) ≠ (k, x)) → (t.stack k).get x = (s.stack k).get x)

/-- What a WRITE that combines leads to, where it passes the checks and need not wait: a locked sequence on the stack its first stripe lies in,
which begins with a read there, where a fabric master is free, and a wait otherwise; no byte changes before the sequence closes (R273; stripe by
stripe, DEDUCED, log 18). -/
def State.CombineLocked (s : State) (a : Arrival) (t : State) : Prop :=
  let h := a.frame.hdr
  ∀ c w off, s.frameCheck a true = .ok c w off → h.len ≠ 0 → s.ownerHold c w (decide (h.fgen ≠ 0)) = false →
    let e := s.winEff c w
    let k := (e.xlate (writeRegion e h.fgen) (a.fold off).off).1
    t.stks = s.stks
    ∧ (∀ m, s.freeMaster k = some m → t.xb.locks = s.xb.locks ++ [⟨m, k, .combine a⟩]
        ∧ ((a.fold off).run.len ≠ 0 → k < 12 → s.stackState k ≠ 3 → t.outstanding (.combine m) = true))
    ∧ (s.freeMaster k = none → t.xb.locks = s.xb.locks ∧ t.fab.heldWrites = s.fab.heldWrites ++ [a])

/-- A WRITE that replaces whole bytes. -/
abbrev replaces (f : Frame) : Prop :=
  f.hdr.combine < 3 ∧ startBit f.hdr = 0 ∧ spareBits f.hdr = 0 ∧ f.payload.length = f.hdr.len

/-- A WRITE that combines elements of a known format. -/
abbrev combines (f : Frame) : Prop :=
  3 ≤ f.hdr.combine ∧ f.hdr.combine < 6 ∧ fmtKnown f.hdr.fmt.toNat = true ∧ fmtMx f.hdr.fmt.toNat = false

/-- All that a WRITE which its owner serves in state `s` leads to in state `t`. -/
def State.WriteAnswered (s : State) (a : Arrival) (t : State) : Prop :=
  (replaces a.frame → s.WriteTurnedAway a t ∧ s.WriteLanded a t) ∧ (combines a.frame → s.WriteTurnedAway a t ∧ s.CombineLocked a t)

/-- A request enters its owner: one of this node itself needs no resolving, nor does any with the Ledger disabled; for another the walker
first resolves the entry (R300). -/
abbrev State.Resolved (s : State) (p : Ingress) : Prop := p = none ∨ s.ledgerOff = true

/-- Nothing holds it up: no read for it is outstanding, and the unit holds the entry of the owner's window (R42). -/
abbrev State.OwnerReady (s : State) (a : Arrival) : Prop := s.outstanding (.resolve a) = false ∧ s.ownerMisses a = []

/-- Two elements in one place share no bit. -/
abbrev Loc.Apart (a b : Loc) : Prop :=
  a.place ≠ b.place ∨ 8 * a.byte + a.bit + a.bits ≤ 8 * b.byte + b.bit ∨ 8 * b.byte + b.bit + b.bits ≤ 8 * a.byte + a.bit

end Machine

end Sys2Proof
end

