-- ==== Sys2Proof/WellFormed.lean ====
section
/-!
DEFINITION. Which commands the outside world can present: the lengths and codes the manual fixes.
-/
namespace Sys2Proof

/-- A data token carries 128 B (R221). -/
def Token.wf (t : Token) : Bool := decide (t.data.length = 128)

/-- The payload of a DATA frame is LEN bytes, 0 to 512 (R290). -/
def Frame.wf (f : Frame) : Bool := decide (f.payload.length ≤ 512)

/-- A frame whose row is the operation `op` (R290). -/
def Frame.wfOp (op : Nat) (f : Frame) : Bool := f.wf && decide (f.hdr.op.toNat = op)

/-- The operations of R290. -/
def netOps : List Nat := [1, 2, 3, 4, 8, 9, 10, 11, 12, 13, 16, 24, 25, 26]

/-- A codeword that a lane brings is 544 symbols of 10 bits (R282). -/
def RawFrame.wf (f : RawFrame) : Bool := f.words.all (fun w => decide (w.2.length = 544) && w.2.all (fun x => decide (x < 1024)))

/-- R221, R231 (a ready vector names cells of the build), R282, R283, R290, R336 (a count of caps for each stack), R341, R398. -/
def Instr.wf : Instr → Bool
  | .dataTokenReceive _ t => t.wf
  | .beatEdge notReady _ _ => notReady.all (fun e => decide (e.1 < 768))
  | .powerUp caps _ => decide (caps.length = 12)
  | .scrubFrame _ _ bytes => decide (bytes.length = 4096 ∨ bytes = [])
  | .frameForward _ f => f.wf
  | .badFrame _ f => f.wf
  | .readReq _ f => f.wfOp 0x01
  | .readResp _ f => f.wfOp 0x02
  | .write _ f => f.wfOp 0x03
  | .writeAck _ f => f.wfOp 0x04
  | .genJoin _ f => f.wfOp 0x08
  | .genOpen _ f => f.wfOp 0x09
  | .genVote _ f => f.wfOp 0x0A
  | .genDecide _ f => f.wfOp 0x0B
  | .genAbortReq _ f => f.wfOp 0x0C
  | .genInquire _ f => f.wfOp 0x0D
  | .ledgerSet _ f => f.wfOp 0x10
  | .regRd _ f => f.wfOp 0x18
  | .regWr _ f => f.wfOp 0x19
  | .mgmtResp _ f => f.wfOp 0x1A
  | .reservedOpFrame _ f => f.wf && decide (f.hdr.op.toNat ∉ netOps)
  | .registerWrite addr size4 _ => decide (addr.toNat % (if size4 then 4 else 8) = 0)
  | _ => true

end Sys2Proof
end

