-- ==== Sys2Proof/Certificates/Slice0/Obligations.lean ====
section
/-!
DEFINITION. The statements about the unit. Each says in its docstring which rules of the spec it formalises; OBLIGATIONS.json
lists them.
-/
section

open Sys2Proof Sys2Proof.Machine

/-! ## The queue -/

/-- Step runs the command at the front of the queue (log 13). -/
def Claim.StepRunsFront : Prop :=
  ∀ (c : Instr) (s : State), step { s with pending := c :: s.pending } = exec c s

/-- Every command answers. It answers a next state with the queue, the build and the fuses as they were (so a step that runs a
command consumes exactly that one), but for three commands that may meet a stack location with no memory behind it: an
image's data, a stack's retirement, and a register write that asks for one. -/
def Claim.ExecKeepsQueue : Prop :=
  ∀ (c : Instr) (s : State),
    (∃ t, exec c s = .next t ∧ t.pending = s.pending ∧ t.build = s.build ∧ t.fuses = s.fuses)
    ∨ (∃ k a, exec c s = .fault (.stackAddressAbsent k a))
      ∧ ((∃ x l, c = .imageDataReceive x l) ∨ (∃ v, c = .stackRetire v) ∨ (∃ a z v, c = .registerWrite a z v))

/-- R336, R387: before the control port is served, no row that writes one register has an effect, and no other write has one before
power-up step 2, in a reset of CONTROL (R404) or while the test port holds the pins (R416). From step 2 on, writes of GLB_STATUS and CLK_STATUS clear the bits they
name, and an aligned write of any other register is ignored. -/
def Claim.PortNotServed : Prop :=
  (∀ (i : Instr) (s : State), i.controlPort = true → (∀ a z v, i ≠ .registerWrite a z v) → s.serving = false → exec i s = .next s)
  ∧ ∀ (a : BitVec 24) (z : Bool) (v : Word) (s : State),
    (s.cpTakes = false → exec (.registerWrite a z v) s = .next s)
    ∧ (s.serving = false → a.toNat % (if z then 4 else 8) = 0 → a.toNat / 8 * 8 ≠ 0x8 → a.toNat / 8 * 8 ≠ 0x100000 →
        exec (.registerWrite a z v) s = .next s)
    ∧ (s.cpTakes = true →
        exec (.registerWrite 0x8 false v) s = .next { s with glb := { s.glb with badAcc := s.glb.badAcc && !bitAt v.toNat 1 } }
        ∧ exec (.registerWrite 0x100000 false v) s = .next { s with clk := { s.clk with
            pllStop := s.clk.pllStop && !bitAt v.toNat 19, coastEv := s.clk.coastEv && !bitAt v.toNat 18 } })

/-! ## Contexts: the control port -/

/-- R186: an accepted doorbell sets the tail; an IDLE context with work becomes RUNNING, and with it the unit leaves PARK (R335);
nothing else changes. -/
def Claim.DoorbellAccepted : Prop :=
  ∀ (c : Fin 64) (v : Word) (s : State), s.serving = true →
    (v.setWidth 32 - (s.ctx c).run.head).toNat ≤ s.rlen c →
    ((s.ctx c).run.tail - (s.ctx c).run.head).toNat ≤ (v.setWidth 32 - (s.ctx c).run.head).toNat →
    let u := s.updRun c (fun r => { r with
      tail := v.setWidth 32
      st := if r.st = .idle ∧ v.setWidth 32 ≠ r.head then .running else r.st })
    exec (.doorbell c v) s = .next { u with clk := { u.clk with
      pwState := if s.clk.pwState = 2 ∧ u.anyRunning = true then 4 else s.clk.pwState } }

/-- R186: a doorbell that fails either test only sets DB_REJECT. -/
def Claim.DoorbellRejected : Prop :=
  ∀ (c : Fin 64) (v : Word) (s : State), s.serving = true →
    (s.rlen c < (v.setWidth 32 - (s.ctx c).run.head).toNat
      ∨ (v.setWidth 32 - (s.ctx c).run.head).toNat < ((s.ctx c).run.tail - (s.ctx c).run.head).toNat) →
    exec (.doorbell c v) s = .next (s.updRun c (fun r => { r with dbReject := true }))

/-- The tail neither laps the head nor moves back: a doorbell keeps TAIL - HEAD within the ring and never lowers it. -/
def Claim.DoorbellNeverLaps : Prop :=
  ∀ (c d : Fin 64) (v : Word) (s t : State), exec (.doorbell c v) s = .next t →
    ((s.ctx d).run.tail - (s.ctx d).run.head).toNat ≤ s.rlen d →
    (t.ctx d).run.head = (s.ctx d).run.head
      ∧ ((t.ctx d).run.tail - (t.ctx d).run.head).toNat ≤ t.rlen d
      ∧ ((s.ctx d).run.tail - (s.ctx d).run.head).toNat ≤ ((t.ctx d).run.tail - (t.ctx d).run.head).toNat

/-- R187: an accepted write of HEAD moves the restart point, discards position and copies and clears RESUMABLE; R255: the
replay point follows and UNSAFE clears. Every tile and all memory stay. -/
def Claim.HeadWriteAccepted : Prop :=
  ∀ (c : Fin 64) (v : Word) (s : State), s.serving = true → (s.ctx c).run.st = .stopped →
    ((s.ctx c).run.tail - v.setWidth 32).toNat ≤ s.rlen c →
    ∃ t, exec (.rcpHeadWrite c v) s = .next t ∧
      t.ctx c = { s.ctx c with
        run := { (s.ctx c).run with head := v.setWidth 32, resumable := false }
        cur := [], fetched := []
        gen := { (s.ctx c).gen with replayHead := v.setWidth 32, noReplay := false } }
      ∧ t = s.setCtx c (t.ctx c)

/-- R187: a write of HEAD that the context's state or the tail forbids only sets DB_REJECT. -/
def Claim.HeadWriteRejected : Prop :=
  ∀ (c : Fin 64) (v : Word) (s : State), s.serving = true →
    ((s.ctx c).run.st ≠ .stopped ∨ s.rlen c < ((s.ctx c).run.tail - v.setWidth 32).toNat) →
    exec (.rcpHeadWrite c v) s = .next (s.updRun c (fun r => { r with dbReject := true }))

/-- R184: RUN takes a STOPPED context whose checks pass to RUNNING, or to IDLE with HEAD = TAIL; CAUSE reads 0. A unit in PARK leaves
it for a context that is RUNNING (R335). -/
def Claim.RunLeavesStopped : Prop :=
  ∀ (c : Fin 64) (s : State), s.serving = true → (s.ctx c).run.st = .stopped → s.runCheck c = none →
    ∃ t, exec (.run c) s = .next t ∧
      (t.ctx c).run = { (s.ctx c).run with
        st := if (s.ctx c).run.head = (s.ctx c).run.tail then .idle else .running
        cause := 0, fcode := 0, stopReq := false, resWin := none, hostSince := false, quantumOver := false }
      ∧ t = { s.setCtx c (t.ctx c) with clk := t.clk }
      ∧ (s.clk.pwState ≠ 2 → t.clk = s.clk)
      ∧ (s.clk.pwState = 2 → (t.ctx c).run.st = .running → t.clk = { s.clk with pwState := 4 })

/-- R399: RUN finds the window table's stack not ONLINE: the context stays STOPPED with CAUSE FAULT, FCODE BOUNDS and HEAD
unchanged, and its FAULT bit is pending. -/
def Claim.RunChecksTable : Prop :=
  ∀ (c : Fin 64) (s : State), s.serving = true → (s.ctx c).run.st = .stopped →
    s.stackState (field (s.ctx c).cfg.winTab.toNat 63 60) ≠ 1 →
    ∃ t, exec (.run c) s = .next t ∧ (t.ctx c).run.st = .stopped ∧ (t.ctx c).run.cause = 3
      ∧ (t.ctx c).run.fcode = 0x02 ∧ (t.ctx c).run.head = (s.ctx c).run.head ∧ bitAt (t.ctx c).irq.toNat 3 = true

/-- R205: a host STOP of a RUNNING context with nothing decoded, an IDLE one, or a WAITING one whose wait is not over: STOPPED, CAUSE
HOST, not resumable, HEAD and every counter as they were. -/
def Claim.StopAtBoundary : Prop :=
  ∀ (c : Fin 64) (s : State), s.serving = true →
    ((s.ctx c).run.st = .running ∧ (s.ctx c).cur = [] ∨ (s.ctx c).run.st = .idle
      ∨ ((s.ctx c).run.st = .waiting ∧ s.waitHead c opSwait = none)) →
    (s.ctx c).gen.abortBit = false →
    ∃ t, exec (.stop c) s = .next t ∧ (t.ctx c).run.st = .stopped ∧ (t.ctx c).run.cause = 1
      ∧ (t.ctx c).run.resumable = false ∧ (t.ctx c).run.head = (s.ctx c).run.head
      ∧ (∀ o p h, t.semGet o p h = s.semGet o p h) ∧ t.stks = s.stks ∧ t.cells = s.cells

/-- R205: a host STOP that finds the context's SWAIT waiting. Satisfied, at the front of its queue, it takes its COUNT and retires,
and the context stops at the next instruction; otherwise the wait is abandoned, its counter as it was. -/
def Claim.StopOfWait : Prop :=
  ∀ (c : Fin 64) (s : State) (i : Cur) (o p : Nat), s.serving = true → (s.ctx c).run.st = .waiting →
    s.waitHead c opSwait = some i → s.waitsOn c i = some (o, p) → (s.ctx c).run.pendFault = none → (s.ctx c).gen.abortBit = false →
    ∃ t, exec (.stop c) s = .next t ∧ (t.ctx c).run.st = .stopped ∧ (t.ctx c).run.cause = 1 ∧ t.stks = s.stks ∧ t.cells = s.cells
      ∧ (∀ a q h, (a, q, h) ≠ (o, p, i.half) → t.semGet a q h = s.semGet a q h)
      ∧ (s.waiterReady c o p i = true → (t.ctx c).run.head = (s.ctx c).run.head + 1
          ∧ (t.semGet o p i.half).toNat = (s.semGet o p i.half).toNat - i.semCount)
      ∧ (s.waiterReady c o p i = false → (t.ctx c).run.head = (s.ctx c).run.head ∧ t.semGet o p i.half = s.semGet o p i.half)

/-- R194: a write of a pair that is not bound, while STOPPED, sets both counters and nothing else. -/
def Claim.SemWriteSetsPair : Prop :=
  ∀ (c : Fin 64) (p : Fin 1024) (v : Word) (s : State), s.serving = true → (s.ctx c).run.st = .stopped →
    s.bindOf c p = none →
    ∃ t, exec (.semWrite c p v) s = .next t
      ∧ t.semGet c p false = v.setWidth 32 ∧ t.semGet c p true = (v >>> 32).setWidth 32
      ∧ (∀ o q h, (o, q) ≠ (c.val, p.val) → t.semGet o q h = s.semGet o q h)
      ∧ (t.ctx c).run = (s.ctx c).run ∧ t.stks = s.stks

/-- R198, on which R195 rests: the pair that a name acts on. A name that no VALID binding holds is the context's own pair; the
lowest binding that holds it leads to the peer's pair, unless the peer is this context or the peer pair is itself bound. -/
def Claim.SemPairResolves : Prop :=
  ∀ (c p : Nat) (s : State),
    let r := fun (o b : Nat) => (tabGet (0 : Word) (s.ctx o).cfg.binds b).toNat
    let binds := fun (o b q : Nat) => bitAt (r o b) 63 = true ∧ field (r o b) 9 0 = q
    ((∀ b, b < 16 → ¬ binds c b p) → s.semPair c p = some (c, p))
    ∧ ∀ b, b < 16 → binds c b p → (∀ a, a < b → ¬ binds c a p) →
        let w := r c b
        (field w 37 32 = c ∨ (∃ a, a < 16 ∧ binds (field w 37 32) a (field w 47 38)) → s.semPair c p = none)
        ∧ (field w 37 32 ≠ c → (∀ a, a < 16 → ¬ binds (field w 37 32) a (field w 47 38)) →
            s.semPair c p = some (field w 37 32, field w 47 38))

/-- R195: a host signal whose sum fits adds COUNT to the named half of the pair it acts on, in every state. -/
def Claim.SemSignalAdds : Prop :=
  ∀ (c : Fin 64) (v : Word) (s : State) (o p : Nat), s.serving = true → s.semPair c (field v.toNat 26 17) = some (o, p) →
    (s.semGet o p (bitAt v.toNat 16)).toNat + field v.toNat 15 0 < 2 ^ 32 →
    ∃ t, exec (.semSignal c v) s = .next t
      ∧ (t.semGet o p (bitAt v.toNat 16)).toNat = (s.semGet o p (bitAt v.toNat 16)).toNat + field v.toNat 15 0
      ∧ (∀ a q h, (a, q, h) ≠ (o, p, bitAt v.toNat 16) → t.semGet a q h = s.semGet a q h)
      ∧ (∀ d, (t.ctx d).run = (s.ctx d).run) ∧ t.stks = s.stks

/-- R195: a host signal whose sum would pass 2^32 - 1, or that acts on no pair, sets SEM_REJECT and nothing else. -/
def Claim.SemSignalRejected : Prop :=
  ∀ (c : Fin 64) (v : Word) (s : State), s.serving = true →
    (s.semPair c (field v.toNat 26 17)).all (fun e =>
      decide (2 ^ 32 ≤ (s.semGet e.1 e.2 (bitAt v.toNat 16)).toNat + field v.toNat 15 0)) = true →
    exec (.semSignal c v) s = .next (s.updRun c (fun r => { r with semReject := true }))

/-- R48, R399: WIN_SYNC discards the cached entry (with ALL, every entry) and begins to wait; a write of CTX_WINTAB while
STOPPED moves the table and discards every cached entry. -/
def Claim.WindowCacheDiscarded : Prop :=
  (∀ (c : Fin 64) (v : Word) (s : State), s.serving = true → (s.ctx c).win.busy = false →
    ∃ t, exec (.winSync c v) s = .next t ∧ (t.ctx c).win.busy = true ∧ (t.ctx c).win.window = v.setWidth 10
      ∧ tabGet none (t.ctx c).win.cache (v.toNat % 1024) = none
      ∧ (bitAt v.toNat 62 = true → (t.ctx c).win.cache = [])
      ∧ t = s.setCtx c { s.ctx c with win := (t.ctx c).win })
  ∧ ∀ (c : Fin 64) (v : Word) (s : State), s.serving = true → (s.ctx c).run.st = .stopped →
    ∃ t, exec (.wintabWrite c v) s = .next t ∧ (t.ctx c).win.cache = []
      ∧ (t.ctx c).cfg = { (s.ctx c).cfg with winTab := v &&& 0xF000FFFFFFFFF000 }
      ∧ t = s.setCtx c (t.ctx c)

/-- R250: an abort that finds neither an open generation nor a flip reports NOTHING; one that finds a flip loses and changes
nothing but the report and the note that the host has asked; one of an open local generation of a context that is STOPPED, IDLE, or RUNNING with nothing decoded releases
it: the context is STOPPED, LAST is 2, RESULT is ABORTED and no position is kept (where the records of its end can be written, log
127); one of a member that has voted waits for the decision (R310), and changes nothing but its bit and the note that the host has
asked (R279). -/
def Claim.HostAbortCases : Prop :=
  ∀ (c : Fin 64) (s : State), s.serving = true → (s.ctx c).gen.abortBit = false → (s.ctx c).gen.replayBit = false →
    ∃ t, exec (.hostAbort c) s = .next t
      ∧ ((s.ctx c).gen.flip = .none → (s.ctx c).gen.isOpen = false → (t.ctx c).gen.result = 0 ∧ (t.ctx c).gen.seq = (s.ctx c).gen.seq)
      ∧ ((s.ctx c).gen.flip ≠ .none →
          t = s.setCtx c { s.ctx c with run := { (s.ctx c).run with hostSince := true }, gen := { (s.ctx c).gen with result := 2 } })
      ∧ ((s.ctx c).gen.flip = .none → (s.ctx c).gen.isOpen = true → (s.ctx c).gen.fab = false → (s.ctx c).gen.member = .idle →
          s.recordsHeld c = false →
          ((s.ctx c).run.st = .stopped ∨ (s.ctx c).run.st = .idle ∨ ((s.ctx c).run.st = .running ∧ (s.ctx c).cur = [])) →
          (t.ctx c).run.st = .stopped ∧ (t.ctx c).gen.isOpen = false ∧ (t.ctx c).gen.last = 2 ∧ (t.ctx c).gen.result = 1
            ∧ (t.ctx c).gen.abortBit = false ∧ (t.ctx c).gen.seq = (s.ctx c).gen.seq
            ∧ (t.ctx c).run.resumable = false ∧ (t.ctx c).cur = [] ∧ (t.ctx c).run.head = (s.ctx c).run.head)
      ∧ ((s.ctx c).gen.flip = .none → (s.ctx c).gen.isOpen = true → (s.ctx c).gen.member = .voted →
          t = s.setCtx c { s.ctx c with
            run := { (s.ctx c).run with hostSince := true }, gen := { (s.ctx c).gen with abortBit := true } })

/-- R256: a REPLAY whose conditions do not hold reports REFUSED and changes nothing else. -/
def Claim.ReplayRefused : Prop :=
  ∀ (c : Fin 64) (s : State), s.serving = true → (s.ctx c).gen.abortBit = false → (s.ctx c).gen.replayBit = false →
    ((s.ctx c).run.st ≠ .stopped ∨ (s.ctx c).gen.noReplay = true
      ∨ s.rlen c < ((s.ctx c).run.tail - (s.ctx c).gen.replayHead).toNat ∨ s.saveCheck c ≠ none
      ∨ (s.saveWindow c).resident = false) →
    exec (.replay c) s = .next (s.updGen c (fun g => { g with result := 4 }))

/-- R256: an accepted REPLAY with no generation open sets HEAD to the replay point, discards position and copies, and empties
every tile of the context's cells. -/
def Claim.ReplayRestarts : Prop :=
  ∀ (c : Fin 64) (s : State), s.serving = true → (s.ctx c).gen.abortBit = false → (s.ctx c).gen.replayBit = false →
    s.replayOk c = true → (s.ctx c).gen.isOpen = false →
    ∃ t, exec (.replay c) s = .next t ∧ (t.ctx c).run.head = (s.ctx c).gen.replayHead ∧ (t.ctx c).run.resumable = false
      ∧ (t.ctx c).cur = [] ∧ (t.ctx c).run.st = .stopped
      ∧ ∀ g, g < s.nCells → (s.cell g).owner = some c.val → ∀ k, (t.cell g).tile k = TileRec.empty

/-! ## Interrupts -/

/-- R361: pending bits clear where a one is written, enables take the value written, for a context's register and the global
one; nothing else changes, but for the messages when an enable rises over a pending bit. -/
def Claim.IrqWrites : Prop :=
  (∀ (c : Fin 64) (v : Word) (s : State), s.serving = true →
    ∃ t, exec (.ctxIrqWrite c v) s = .next t
      ∧ (∀ k : Fin 2, bitAt (t.ctx c).irq.toNat k = bitAt v.toNat k
          ∧ bitAt (t.ctx c).irq.toNat (2 + k) = (bitAt (s.ctx c).irq.toNat (2 + k) && !bitAt v.toNat (2 + k)))
      ∧ t = { s.setCtx c { s.ctx c with irq := (t.ctx c).irq } with glb := { s.glb with msiQ := t.glb.msiQ, owed := t.glb.owed } })
  ∧ ∀ (v : Word) (s : State), s.serving = true →
    ∃ t, exec (.glbIrqWrite v) s = .next t
      ∧ (∀ k : Fin 2, bitAt t.glb.irq.toNat k = bitAt v.toNat k
          ∧ bitAt t.glb.irq.toNat (2 + k) = (bitAt s.glb.irq.toNat (2 + k) && !bitAt v.toNat (2 + k)))
      ∧ t = { s with glb := { s.glb with irq := t.glb.irq, msiQ := t.glb.msiQ, owed := t.glb.owed } }

/-- R361: an enable that rises over its pending bit sends one message of its vector, provided ENABLE is 1 and the queue has
room. -/
def Claim.IrqEnableSends : Prop :=
  ∀ (c : Fin 64) (v : Word) (s : State), s.serving = true → s.msiOn = true → s.glb.msiQ.length < 256 →
    (s.ctx c).irq = 0b1000 → bitAt v.toNat 1 = true → bitAt v.toNat 3 = false →
    ∃ t, exec (.ctxIrqWrite c v) s = .next t
      ∧ t.glb.msiQ = s.glb.msiQ ++ [((s.glb.msiAddr >>> 2) <<< 2, BitVec.ofNat 32 (s.glb.msiData.toNat % 2 ^ 32 + (2 * c + 1)))]

/-- R361, R411: a write of GLB_MSI_DATA stores the value. Where ENABLE rises, each vector that is pending and enabled sends its
message, as far as the queue has room; where it does not rise, nothing else changes. -/
def Claim.MsiEnableWrites : Prop :=
  ∀ (v : Word) (s : State), s.serving = true →
    ∃ t, exec (.msiEnableWrite v) s = .next t
      ∧ t = { s with glb := { s.glb with msiData := v &&& 0x80000000FFFFFFFF, msiQ := t.glb.msiQ, owed := t.glb.owed } }
      ∧ (s.msiOn = true ∨ bitAt v.toNat 63 = false → t.glb.msiQ = s.glb.msiQ ∧ t.glb.owed = s.glb.owed)
      ∧ (s.msiOn = false → bitAt v.toNat 63 = true → s.glb.msiQ.length + s.vectorsDue.length ≤ 256 →
          t.glb.owed = s.glb.owed
          ∧ t.glb.msiQ = s.glb.msiQ ++ s.vectorsDue.map (fun n => ((s.glb.msiAddr >>> 2) <<< 2, BitVec.ofNat 32 (v.toNat % 2 ^ 32 + n))))

/-- R382: an access of another size or alignment sets BADACC and changes nothing else, once the port takes accesses: from power-up
step 2 on (R336, R410; log 92), while CONTROL is not in reset (R404) and the test port does not hold the pins. -/
def Claim.BadAccess : Prop :=
  ∀ (w : Bool) (s : State), s.cpTakes = true → exec (.badAccess w) s = .next { s with glb := { s.glb with badAcc := true } }
/-! ## The recipe front end -/

/-- R149, R188, R189: with work left, no SWAIT among what has been fetched, the ring's window held by no flip and no failure, a fetch
reads words of one aligned 64 B piece: instruction m lies at RBASE + 16 (m mod RLEN) of window RWIN. It takes all words of the piece
below the tail that 32 instructions leave room for, or ends with the first SWAIT among them. Memory, HEAD and TAIL stay. -/
def Claim.FetchReadsRing : Prop :=
  ∀ (c : Fin 64) (s : State), s.active c = true → s.crossRuns = true → s.leftFrom c (s.nextFetch c) ≠ 0 →
    (s.ctx c).cur.length + (s.ctx c).fetched.length < 32 → s.behindSwait c = false → s.flipHold c [(s.ringAt c).1] = false →
    s.ringFault c ((s.ringAt c).2 + 16 * ((s.nextFetch c).toNat % s.rlen c)) = none →
    let most := min (32 - ((s.ctx c).cur.length + (s.ctx c).fetched.length))
      (min (4 - (s.nextFetch c).toNat % 4) (s.leftFrom c (s.nextFetch c)))
    let e := s.winEff c (s.ringAt c).1
    let word := fun (j : Nat) => BitVec.ofNat 128
      (leNat (s.winRead e e.current ((s.ringAt c).2 + 16 * ((s.nextFetch c + BitVec.ofNat 32 j).toNat % s.rlen c)) 16))
    ∃ t n, exec (.recipeFetch c) s = .next t ∧ 0 < n ∧ n ≤ most
      ∧ (t.ctx c).fetched = (s.ctx c).fetched ++ (List.range n).map (fun j => (s.nextFetch c + BitVec.ofNat 32 j, word j))
      ∧ (∀ j, j + 1 < n → wordOp (word j) ≠ opSwait) ∧ (n < most → wordOp (word (n - 1)) = opSwait)
      ∧ (t.ctx c).run = (s.ctx c).run ∧ t.stks = s.stks ∧ t.cells = s.cells

/-- R54, R154: decoding and validating the next fetched word behind others moves no byte: it joins the decoded instructions,
with its fault, if it has one, kept until HEAD reaches it. Its reads of the stacks go out of the descriptor fetcher. It is not
decoded before its piece of the recipe has come (R264, and the assumption of log 17). No flip holds translation here (R242). -/
def Claim.DecodeMovesNothing : Prop :=
  ∀ (c : Fin 64) (s : State) (n : BitVec 32) (w : BitVec 128) (rest : List (BitVec 32 × BitVec 128)),
    s.active c = true → s.crossRuns = true → (s.ctx c).fetched = (n, w) :: rest → (s.ctx c).cur ≠ [] → s.decodeOpen c = true →
    s.decodeRoom c (s.decode c n w) = true → (∀ d, (s.ctx d).gen.flip ≠ .begun) →
    (s.fetchWaits c n = true → exec (.decodeValidate c) s = .next s)
    ∧ (s.fetchWaits c n = false →
      ∃ t, exec (.decodeValidate c) s = .next t ∧ (t.ctx c).cur = (s.ctx c).cur ++ [s.decode c n w]
        ∧ (t.ctx c).fetched = rest ∧ (t.ctx c).run = (s.ctx c).run ∧ (t.ctx c).flt = (s.ctx c).flt
        ∧ t.stks = s.stks ∧ t.cells = s.cells ∧ t.fab = s.fab
        ∧ t.xb = if (s.decode c n w).fault = none then (s.issueReads c n (s.decodeReads c (s.decode c n w))).xb else s.xb)

/-- R159 D1: an unassigned opcode, or a reserved bit of the word that is not 0, raises FORMAT in decode at D1. -/
def Claim.DecodeD1 : Prop :=
  ∀ (s : State) (c : Nat) (n : BitVec 32) (w : BitVec 128),
    (opInfo (field w.toNat 127 120) = none
      ∨ ∃ o, opInfo (field w.toNat 127 120) = some o ∧ ∃ r ∈ o.reserved, field w.toNat r.1 r.2 ≠ 0) →
    ∃ f, (s.decode c n w).fault = some f ∧ f.code = 0x09 ∧ f.stage = 1 ∧ f.step = 1

/-- R190: behind a format D instruction that was decoded ahead, no second one is decoded: the state stays as it is. -/
def Claim.DecodeOneAhead : Prop :=
  ∀ (c : Fin 64) (s : State) (n : BitVec 32) (w : BitVec 128) (rest : List (BitVec 32 × BitVec 128)) (a b : Cur),
    (s.ctx c).fetched = (n, w) :: rest → (s.ctx c).cur = [a, b] → b.infoFmt = .d → (s.decode c n w).infoFmt = .d →
    exec (.decodeValidate c) s = .next s

/-! ## Instructions that act on the whole context

`s.readyHead c op .ready = some i` says that context c is RUNNING and that the instruction at HEAD is i, with opcode op,
decoded without a fault and not begun. `NothingDue` says that no stop and no fault waits for the next boundary. -/

/-- R180, R192: NOP retires at once. HEAD moves by one; nothing but the context's own front end changes. -/
def Claim.NopRetires : Prop :=
  ∀ (c : Fin 64) (s : State) (i : Cur), s.readyHead c opNop .ready = some i → s.NothingDue c →
    ∃ t, exec (.nop c) s = .next t ∧ s.HeadMoved c t ∧ t = s.setCtx c (t.ctx c)
      ∧ (t.ctx c).gen = (s.ctx c).gen ∧ (t.ctx c).sems = (s.ctx c).sems ∧ (t.ctx c).amax = (s.ctx c).amax
      ∧ (t.ctx c).cvtFlags = (s.ctx c).cvtFlags

/-- R206: HALT retires, and the context is STOPPED with CAUSE HALT and HALT_CODE equal to CODE; the open generation stays
open; with IRQ = 1 the completion bit is pending. -/
def Claim.HaltStops : Prop :=
  ∀ (c : Fin 64) (s : State) (i : Cur), s.readyHead c opHalt .ready = some i → (s.ctx c).gen.abortBit = false →
    ∃ t, exec (.halt c) s = .next t ∧ (t.ctx c).run.head = (s.ctx c).run.head + 1 ∧ (t.ctx c).run.st = .stopped
      ∧ (t.ctx c).run.cause = 2 ∧ (t.ctx c).run.haltCode = BitVec.ofNat 16 (field i.word.toNat 118 103)
      ∧ (t.ctx c).gen = (s.ctx c).gen ∧ t.stks = s.stks ∧ t.cells = s.cells ∧ t.fab = s.fab
      ∧ (bitAt i.word.toNat 119 = true → bitAt (t.ctx c).irq.toNat 2 = true)
      ∧ (bitAt i.word.toNat 119 = false → (t.ctx c).irq = (s.ctx c).irq)

/-- R177, R196: an SWAIT with nobody before it and X at least COUNT subtracts COUNT and retires in one step; no other counter
changes, nor memory. -/
def Claim.SwaitTakes : Prop :=
  ∀ (c : Fin 64) (s : State) (i : Cur) (o p : Nat), s.readyHead c opSwait .ready = some i → s.NothingDue c →
    s.semPair c i.sem = some (o, p) → s.semWaiters o p i.half = [] → i.semCount ≤ (s.semGet o p i.half).toNat →
    ∃ t, exec (.swait c) s = .next t ∧ s.HeadMoved c t
      ∧ (t.semGet o p i.half).toNat = (s.semGet o p i.half).toNat - i.semCount
      ∧ (∀ a q h, (a, q, h) ≠ (o, p, i.half) → t.semGet a q h = s.semGet a q h)
      ∧ (t.ctx c).gen.noReplay = true ∧ t.stks = s.stks ∧ t.cells = s.cells

/-- R196: otherwise the SWAIT joins the queue behind the others and the context is WAITING, with every counter and HEAD as they
were. -/
def Claim.SwaitWaits : Prop :=
  ∀ (c : Fin 64) (s : State) (i : Cur) (o p : Nat), s.readyHead c opSwait .ready = some i → s.NothingDue c →
    s.semPair c i.sem = some (o, p) →
    (s.semWaiters o p i.half ≠ [] ∨ (s.semGet o p i.half).toNat < i.semCount) →
    ∃ t, exec (.swait c) s = .next t ∧ (t.ctx c).run = { (s.ctx c).run with st := .waiting }
      ∧ t.semWaiters o p i.half = s.semWaiters o p i.half ++ [⟨c, p, i.half, i.semCount⟩]
      ∧ (∀ a q h, t.semGet a q h = s.semGet a q h) ∧ t.stks = s.stks ∧ t.cells = s.cells

/-- R196: the front waiter, once its counter is large enough, subtracts, leaves the queue and retires. -/
def Claim.SwaitWakes : Prop :=
  ∀ (c : Fin 64) (s : State) (i : Cur) (o p : Nat), s.waitHead c opSwait = some i → s.NothingDue c →
    s.waitsOn c i = some (o, p) → s.waiterReady c o p i = true →
    ∃ t, exec (.swaitWake c) s = .next t ∧ s.HeadMoved c t
      ∧ (t.semGet o p i.half).toNat = (s.semGet o p i.half).toNat - i.semCount
      ∧ (∀ a q h, (a, q, h) ≠ (o, p, i.half) → t.semGet a q h = s.semGet a q h)
      ∧ (∀ a, a < 64 → ∀ w ∈ (t.ctx a).sems.waiters, w.ctx ≠ c.val)

/-- R177: SSIGNAL adds COUNT and retires. -/
def Claim.SsignalAdds : Prop :=
  ∀ (c : Fin 64) (s : State) (i : Cur) (o p : Nat), s.readyHead c opSsignal .ready = some i → s.NothingDue c →
    s.semPair c i.sem = some (o, p) → (s.semGet o p i.half).toNat + i.semCount < 2 ^ 32 →
    ∃ t, exec (.ssignal c) s = .next t ∧ s.HeadMoved c t
      ∧ (t.semGet o p i.half).toNat = (s.semGet o p i.half).toNat + i.semCount
      ∧ (∀ a q h, (a, q, h) ≠ (o, p, i.half) → t.semGet a q h = s.semGet a q h)
      ∧ t.stks = s.stks ∧ t.cells = s.cells

/-- R177: an SSIGNAL whose sum would pass 2^32 - 1 raises BOUNDS; every counter and HEAD stay. -/
def Claim.SsignalOverflows : Prop :=
  ∀ (c : Fin 64) (s : State) (i : Cur) (o p : Nat), s.readyHead c opSsignal .ready = some i →
    (s.ctx c).gen.abortBit = false → s.semPair c i.sem = some (o, p) →
    2 ^ 32 ≤ (s.semGet o p i.half).toNat + i.semCount →
    ∃ t, exec (.ssignal c) s = .next t ∧ (t.ctx c).run.st = .stopped ∧ (t.ctx c).run.cause = 3 ∧ (t.ctx c).run.fcode = 0x02
      ∧ (t.ctx c).run.head = (s.ctx c).run.head ∧ (∀ a q h, t.semGet a q h = s.semGet a q h)

/-- R199: a FENCE retires where its conditions hold (every block of the context delivered, and recorded, for STREAMS; every WRITE
acknowledged for FABRIC; that STREAMS waits for the blocks to be recorded is log 100, DEDUCED), with the completion bit pending for IRQ = 1; otherwise the context is WAITING. -/
def Claim.FenceCases : Prop :=
  ∀ (c : Fin 64) (s : State) (i : Cur), s.readyHead c opFence .ready = some i → s.NothingDue c →
    ∃ t, exec (.fence c) s = .next t
      ∧ ((bitAt i.word.toNat 118 = true → s.streamsDone c = true) → (bitAt i.word.toNat 117 = true → s.writesDone c = true) →
          s.HeadMoved c t ∧ (bitAt i.word.toNat 119 = true → bitAt (t.ctx c).irq.toNat 2 = true))
      ∧ ((bitAt i.word.toNat 118 = true ∧ s.streamsDone c = false) ∨ (bitAt i.word.toNat 117 = true ∧ s.writesDone c = false) →
          (t.ctx c).run = { (s.ctx c).run with st := .waiting })
      ∧ t.stks = s.stks ∧ t.cells = s.cells ∧ (∀ a q h, t.semGet a q h = s.semGet a q h)

/-- R192: an instruction whose data movement is over retires once its stack ports are quiet (RGET: once every read has been
answered; RPUT and RESHARD: once every frame has left), and not before. -/
def Claim.RetireWaitsForPorts : Prop :=
  ∀ (c : Fin 64) (s : State) (i : Cur), s.head c = some i → s.running c = true → i.phase = .moved → i.is opCtxsave = false →
    (s.mayRetire c i = false → exec (.instructionRetire c) s = .next s)
    ∧ (s.mayRetire c i = true → s.switchedOut c = false → s.NothingDue c →
        ∃ t, exec (.instructionRetire c) s = .next t ∧ s.HeadMoved c t ∧ t = s.setCtx c (t.ctx c)
          ∧ (t.ctx c).amax = (s.ctx c).amax ∧ (t.ctx c).cvtFlags = (s.ctx c).cvtFlags)

/-! ## Generations -/

/-- R178, R241: GEN with FAB = 0 opens a local generation with an empty write set and retires; while one is open it raises
SHAPE and leaves it open. -/
def Claim.GenOpens : Prop :=
  ∀ (c : Fin 64) (s : State) (i : Cur), s.readyHead c opGen .ready = some i → s.NothingDue c → (s.ctx c).gen.abortBit = false →
    ∃ t, exec (.gen c) s = .next t
      ∧ ((s.ctx c).gen.isOpen = false → bitAt i.word.toNat 119 = false →
          s.HeadMoved c t ∧ (t.ctx c).gen.isOpen = true ∧ (t.ctx c).gen.fab = false ∧ (t.ctx c).gen.writeSet = []
            ∧ (t.ctx c).gen.seq = (s.ctx c).gen.seq ∧ t = s.setCtx c (t.ctx c))
      ∧ ((s.ctx c).gen.isOpen = true →
          (t.ctx c).run.st = .stopped ∧ (t.ctx c).run.fcode = 0x05 ∧ (t.ctx c).gen = (s.ctx c).gen)

/-- R178, R255: COMMIT and ABORT with no generation open retire at once, the replay point moves behind them, and a COMMIT with
IRQ = 1 still sets the completion bit; nothing is published. -/
def Claim.CommitAbortWithoutGeneration : Prop :=
  (∀ (c : Fin 64) (s : State) (i : Cur), s.readyHead c opCommit .ready = some i → s.NothingDue c →
    (s.ctx c).gen.isOpen = false → (s.ctx c).gen.member ≠ .aborted →
    ∃ t, exec (.commit c) s = .next t ∧ s.HeadMoved c t
      ∧ (t.ctx c).gen = { (s.ctx c).gen with replayHead := i.n + 1, noReplay := false }
      ∧ (bitAt i.word.toNat 119 = true → bitAt (t.ctx c).irq.toNat 2 = true)
      ∧ t.stks = s.stks ∧ (t.ctx c).win = (s.ctx c).win)
  ∧ ∀ (c : Fin 64) (s : State) (i : Cur), s.readyHead c opAbort .ready = some i → s.NothingDue c →
    (s.ctx c).gen.isOpen = false →
    ∃ t, exec (.abort c) s = .next t ∧ s.HeadMoved c t
      ∧ (t.ctx c).gen = { (s.ctx c).gen with member := .idle, replayHead := i.n + 1, noReplay := false }
      ∧ t.stks = s.stks ∧ (t.ctx c).win = (s.ctx c).win

/-- R244, R251: ABORT releases the open local generation: LAST is 2, the write set is empty, no GEN of a window changes, and no
record is DIRTY afterwards. Where a record must change and the save window is not resident, R258 lets no record be lost and R181 gives ABORT no
fault of its own: that it then raises RESIDENCY and leaves the generation open is the model's choice (log 127). -/
def Claim.AbortReleases : Prop :=
  ∀ (c : Fin 64) (s : State) (i : Cur), s.readyHead c opAbort .ready = some i → s.NothingDue c →
    (s.ctx c).gen.isOpen = true → (s.ctx c).gen.fab = false →
    ∃ t, exec (.abort c) s = .next t
      ∧ (s.recordsHeld c = false → s.HeadMoved c t ∧ (t.ctx c).gen.isOpen = false ∧ (t.ctx c).gen.last = 2
        ∧ (t.ctx c).gen.writeSet = [] ∧ (t.ctx c).win = (s.ctx c).win ∧ (t.ctx c).gen.seq = (s.ctx c).gen.seq
        ∧ ∀ w, w < 1024 → (t.winRec c w).st = (if (s.winRec c w).st = .dirty then .lag else (s.winRec c w).st))
      ∧ (s.recordsHeld c = true → (s.ctx c).gen.abortBit = false → (t.ctx c).run.st = .stopped ∧ (t.ctx c).run.fcode = 0x04
        ∧ (t.ctx c).run.head = (s.ctx c).run.head ∧ (t.ctx c).gen = (s.ctx c).gen)

/-- R242 step 1: a COMMIT of a local generation that wrote something waits for its flip, and the flip begins only where no
host abort has come: FLIP is 1 and SEQ is odd one later. -/
def Claim.FlipBegins : Prop :=
  (∀ (c : Fin 64) (s : State) (i : Cur), s.readyHead c opCommit .ready = some i → (s.ctx c).gen.isOpen = true →
    (s.ctx c).gen.fab = false → (s.ctx c).gen.member = .idle → (s.ctx c).gen.writeSet ≠ [] →
    ∃ t, exec (.commit c) s = .next t ∧ t.head c = some { i with phase := .flipping } ∧ (t.ctx c).gen = (s.ctx c).gen
      ∧ t = s.setCtx c (t.ctx c))
  ∧ ∀ (c : Fin 64) (s : State) (i : Cur), s.flipHead c .none = some i →
    (((s.ctx c).gen.abortBit = true → exec (.flipBegin c) s = .next s)
      ∧ ((s.ctx c).gen.abortBit = false → exec (.flipBegin c) s = .next (s.updGen c (fun g => { g with
          flip := .begun, seq := g.seq + 1 }))))

/-- R242 step 3: at the flip point, in one step, the GEN of every window of the write set becomes GEN + 1 and the GEN of every
other window of the context stays. No byte of the window table has changed yet: that is step 4 (R337). -/
def Claim.FlipPointAdvances : Prop :=
  ∀ (c : Fin 64) (s : State) (i : Cur), s.flipHead c .begun = some i → (s.ctx c).gen.writeSet.Nodup →
    ∃ t, exec (.flipPoint c) s = .next t
      ∧ (t.ctx c).gen = { (s.ctx c).gen with flip := .point, newGen := (t.ctx c).gen.newGen }
      ∧ (∀ w ∈ (s.ctx c).gen.writeSet, tabGet none (t.ctx c).gen.newGen w = some ((s.winLook c w).gen + 1)) ∧ t.stks = s.stks
      ∧ (∀ w ∈ (s.ctx c).gen.writeSet, t.winLook c w = { s.winLook c w with gen := (s.winLook c w).gen + 1 })
      ∧ (∀ w, w ∉ (s.ctx c).gen.writeSet → tabGet none (t.ctx c).win.cache w = tabGet none (s.ctx c).win.cache w)
      ∧ (t.ctx c).run = (s.ctx c).run ∧ t.cells = s.cells

/-- R242 step 4, R258: the flip is complete once no write of the window table is open, the save window is resident with no
synchronisation of it in progress, and CROSS runs (R323); FLIP is 0, SEQ is even one later, LAST is 1 and COMMIT retires. Until then
nothing changes. -/
def Claim.FlipCompletes : Prop :=
  ∀ (c : Fin 64) (s : State) (i : Cur), s.flipHead c .point = some i → s.NothingDue c →
    ((s.tablePending c = true ∨ s.saveReady c = false ∨ s.crossRuns = false → exec (.flipComplete c) s = .next s)
      ∧ (s.tablePending c = false → s.saveReady c = true → s.crossRuns = true →
        ∃ t, exec (.flipComplete c) s = .next t ∧ s.HeadMoved c t ∧ (t.ctx c).gen.isOpen = false
          ∧ (t.ctx c).gen.flip = .none ∧ (t.ctx c).gen.seq = (s.ctx c).gen.seq + 1 ∧ (t.ctx c).gen.last = 1
          ∧ (t.ctx c).gen.replayHead = i.n + 1 ∧ (t.ctx c).win = (s.ctx c).win))

/-- R244, R258: a catch-up copy that is done leaves the record CLEAN; GEN stays; and the copy ends only when no request of it is open,
no instruction is pinned to the region it writes, and the save window, which holds the record, is resident. -/
def Claim.CatchupCleans : Prop :=
  ∀ (c : Fin 64) (w : Fin 1024) (s : State), (s.winRec c w).st = .lag → (s.winRec c w).paused = false →
    (s.winRec c w).retry = false → (s.winEff c w).resident = true →
    ((s.outstanding (.catchup c w) = true ∨ s.pinnedAside c w = true ∨ (s.saveWindow c).resident = false →
        exec (.catchupCopyDone c w) s = .next s)
      ∧ (s.outstanding (.catchup c w) = false → s.pinnedAside c w = false → (s.saveWindow c).resident = true →
        ∃ t, exec (.catchupCopyDone c w) s = .next t ∧ t.winRec c w = WinRec.clean
          ∧ (∀ v, v ≠ w.val → t.winRec c v = s.winRec c v) ∧ (t.ctx c).win = (s.ctx c).win ∧ (t.ctx c).gen = (s.ctx c).gen
          ∧ t.cells = s.cells))

/-- R244, R254: a catch-up copy changes no byte of stack memory but those of its window's aside region and of the record in the save area, so
that region GEN mod 2 keeps the generation the host reads there, in every state. -/
def Claim.PublishedRegionKept : Prop :=
  ∀ (c : Fin 64) (w : Fin 1024) (s : State),
    let e := s.winEff c w
    let save := (s.copyStripes e ((s.winRec c w).stripes e.limit)).saveWindow c
    ∃ t, exec (.catchupCopyDone c w) s = .next t
      ∧ ∀ k a, (∀ x, x < e.limit → e.xlate (1 - e.current) x ≠ (k, a)) →
          (∀ j, j < 128 → save.xlate save.current ((s.saveAt c).2 + (0x1000 + 128 * w.val + j)) ≠ (k, a)) →
          (t.stack k).get a = (s.stack k).get a

/-- R48: a synchronisation reports idle once no access translated through the old entry is open; until then it stays busy. -/
def Claim.WinSyncReportsIdle : Prop :=
  ∀ (c : Fin 64) (s : State), (s.ctx c).win.busy = true →
    ((s.winQuiet c (s.ctx c).win.window.toNat (s.ctx c).win.all = false → exec (.winSyncIdle c) s = .next s)
      ∧ (s.winQuiet c (s.ctx c).win.window.toNat (s.ctx c).win.all = true →
        ∃ t, exec (.winSyncIdle c) s = .next t ∧ (t.ctx c).win.busy = false ∧ (t.ctx c).win.cache = (s.ctx c).win.cache))

/-! ## Context switches and the wait bound -/

/-- R207, R258, R259: CTXSAVE with its save window not resident raises RESIDENCY and stops the context at it; otherwise the cells keep
what they hold, the context runs on, and the save area holds the write set and the tile state words of every cell the context owns.
Once its writes have been accepted it retires, with its completion interrupt. -/
def Claim.CtxsaveWrites : Prop :=
  ∀ (c : Fin 64) (s : State) (i : Cur), s.readyHead c opCtxsave .ready = some i → (s.ctx c).gen.abortBit = false →
    ∃ t, exec (.ctxsave c) s = .next t
      ∧ ((s.saveWindow c).resident = false → (t.ctx c).run.st = .stopped ∧ (t.ctx c).run.fcode = 0x04
          ∧ (t.ctx c).run.head = (s.ctx c).run.head)
      ∧ ((s.saveWindow c).resident = true → t.head c = some { i with phase := .moved } ∧ (t.ctx c).run = (s.ctx c).run
          ∧ t.cells = s.cells ∧ (t.ctx c).gen = (s.ctx c).gen
          ∧ (s.SaveAreaSound c → (s.ownedCells c).Nodup → (∀ g ∈ s.ownedCells c, g < s.nCells) →
              t.saveRead c 0x600 128 = (List.range 128).map (fun b => BitVec.ofNat 8
                (sumNat ((List.range 8).map (fun k => boolNat ((s.ctx c).gen.writeSet.contains (8 * b + k)) k))))
              ∧ ∀ g ∈ s.ownedCells c, t.saveRead c (cellRecAt g) 256
                  = (List.range 32).flatMap (fun k => natLe 8 ((s.cell g).tile k).word)))
      ∧ ∀ (u : State) (k : Cur), u.head c = some k → k.phase = .moved → k.is opCtxsave = true → u.active c = true → u.NothingDue c →
          (u.mayRetire c k = true → ∃ v, exec (.instructionRetire c) u = .next v ∧ u.HeadMoved c v
            ∧ (bitAt k.word.toNat 119 = true → bitAt (v.ctx c).irq.toNat 2 = true))
          ∧ (u.mayRetire c k = false → exec (.instructionRetire c) u = .next u)

/-- R93, R257, R259: a context switched out of a cell no longer owns it; the cell holds no tile, and its latches and Crumb cache are
invalid, and its bytes outside the tiles are as they were (R92); its tile state words lie in the save area; the context keeps its
STATE and HEAD; no other cell changes. -/
def Claim.SwitchOutReleases : Prop :=
  ∀ (c : Fin 64) (g : Fin 768) (s : State), (s.cell g).owner = some c.val → s.atBoundary c = true →
    s.switchAllowed c g = true → (s.saveWindow c).resident = true →
    ∃ t, exec (.contextSwitchOut c g) s = .next t
      ∧ t.cell g = { s.cell g with
          owner := none, tiles := [], crumb := [], latches := [], mem := (t.cell g).mem, opFile := (t.cell g).opFile }
      ∧ (s.MemWf → (s.cell g).OutsideTiles s.build (t.cell g))
      ∧ (s.SaveAreaSound c → g.val < s.nCells →
          t.saveRead c (cellRecAt g) 256 = (List.range 32).flatMap (fun k => natLe 8 ((s.cell g).tile k).word))
      ∧ g.val ∈ (t.ctx c).spilled ∧ (∀ k, k ≠ g.val → t.cell k = s.cell k)
      ∧ (t.ctx c).run.st = (s.ctx c).run.st ∧ (t.ctx c).run.head = (s.ctx c).run.head

/-- R93, R257, R259: a cell comes back to a context only where nobody owns it, it is in service and powered, neither a self-test (R370) nor a
change of the cell that serves (R371) has it, and its record lies in the save area; it is the context's again, its tiles are in the states that the record gives, and its record is spilled no more. -/
def Claim.RestoreOwns : Prop :=
  ∀ (c : Fin 64) (g : Fin 768) (s : State), (s.cell g).owner = none → g.val ∈ (s.ctx c).spilled →
    (s.saveWindow c).resident = true → g.val < s.nCells → s.cellDown g = false → s.notParked = true →
    (s.ctx c).run.pendFault = none → (s.slice (g / 64)).testsHome (g % 64) = false → s.swapsCell g = false →
    ∃ t, exec (.contextRestore c g) s = .next t ∧ (t.cell g).owner = some c.val ∧ g.val ∉ (t.ctx c).spilled
      ∧ (∀ k, k < 32 → (t.cell g).tile k = TileRec.ofWord (leNat (s.saveRead c (cellRecAt g + 8 * k) 8)))
      ∧ (∀ k, k ≠ g.val → t.cell k = s.cell k) ∧ t.stks = s.stks ∧ (t.ctx c).run = (s.ctx c).run

/-- R257: the quantum ends for a context that owns a cell and has a quantum; RUN STATE and HEAD stay. -/
def Claim.QuantumExpires : Prop :=
  ∀ (c : Fin 64) (s : State), field (s.ctx c).cfg.sched.toNat 47 32 ≠ 0 → s.ownedCells c ≠ [] →
    exec (.quantumExpire c) s = .next (s.updRun c (fun r => { r with quantumOver := true }))

/-- R197: an SWAIT at its bound whose waiter is not satisfied raises TIMEOUT, leaves its queue and leaves every counter; one
that is satisfied takes its count and retires. -/
def Claim.WaitBoundTestsWaiterFirst : Prop :=
  ∀ (c : Fin 64) (s : State) (i : Cur) (o p : Nat), s.waitHead c opSwait = some i → s.waitsOn c i = some (o, p) →
    (s.ctx c).gen.abortBit = false →
    ((s.waiterReady c o p i = true → exec (.waitBoundExpire c) s = exec (.swaitWake c) s)
      ∧ (s.waiterReady c o p i = false →
        ∃ t, exec (.waitBoundExpire c) s = .next t ∧ (t.ctx c).run.st = .stopped ∧ (t.ctx c).run.fcode = 0x0A
          ∧ (t.ctx c).run.head = (s.ctx c).run.head ∧ (∀ a q h, t.semGet a q h = s.semGet a q h)
          ∧ ∀ a, a < 64 → ∀ w ∈ (t.ctx a).sems.waiters, w.ctx ≠ c.val))
/-! ## Instructions that move data

`s.Begins c op i` (Safety) says that the instruction i at HEAD passes cell setup and moves data; `s.begun c i` is the state, and
the instruction with its pins, from which it moves. -/

/-- R82, R86, R91: TLOAD and TMOVE leave their destination tile VALID with the instruction's shape in every engaged cell, which
the context owns; the movement is over, HEAD stays and no other context changes. -/
def Claim.TileBecomesValid : Prop :=
  ∀ (c : Fin 64) (s : State) (i : Cur) (t : TileRef) (ins : Instr),
    (ins = .tload c ∧ s.Begins c opTload i ∧ t = i.fieldTile) ∨ (ins = .tmove c ∧ s.Begins c opTmove i ∧ t = i.moveDst) →
    (fmtMx t.fmt = true → t.stile ≠ t.tile) →
    ∃ u, exec ins s = .next u ∧ s.DataMoved c i u
      ∧ ∀ g ∈ i.cells, ((u.cell g).tile t.tile = ⟨.valid, 0, t.width / 32 - 1, t.rows - 1⟩)
          ∧ (fmtMx t.fmt = true → (u.cell g).tile t.stile = ⟨.valid, 0, 0, t.rows - 1⟩)

/-- R92: TREL makes the named tiles EMPTY in every engaged cell and leaves every other tile, every byte of cell memory outside the
tiles it releases, every byte of every stack and every other cell as they were. -/
def Claim.TrelEmpties : Prop :=
  ∀ (c : Fin 64) (s : State) (i : Cur), s.Begins c opTrel i → i.descs = [] →
    (∀ g ∈ i.cells, Mem.wf (s.cell g).mem = true) →
    ∃ u, exec (.trel c) s = .next u ∧ s.DataMoved c i u ∧ u.stks = s.stks
      ∧ (∀ g ∈ i.cells, ∀ k, k < 32 →
          (bitAt (field i.word.toNat 95 64) k = true → ((u.cell g).tile k).st = .empty)
          ∧ (bitAt (field i.word.toNat 95 64) k = false → (u.cell g).tile k = (s.cell g).tile k))
      ∧ (∀ g ∈ i.cells, ∀ a, (∀ k, k < 32 → bitAt (field i.word.toNat 95 64) k = true → a < k * 0x4000 ∨ k * 0x4000 + 0x4000 ≤ a) →
          (u.cell g).mem.get a = (s.cell g).mem.get a)
      ∧ (∀ g, g ∉ i.cells → u.cell g = s.cell g)

/-- The rows that are one copy: their data movement ends in one step (R90, R103, R105, R107, R173 to R175). -/
abbrev copyRow (c : Fin 64) (op : Nat) (ins : Instr) : Prop :=
  (op = opTstore ∧ ins = .tstore c) ∨ (op = opTrans2d ∧ ins = .trans2d c) ∨ (op = opPerm ∧ ins = .perm c)
    ∨ (op = opRot ∧ ins = .rot c) ∨ (op = opReblock ∧ ins = .reblock c) ∨ (op = opAmax ∧ ins = .amax c)
    ∨ (op = opCvt ∧ ins = .cvt c)

/-- TSTORE, TRANS2D, PERM, ROT, REBLOCK, AMAX and a CVT that is not on the combine path move all their data; with no operand in a
stack window, no stack byte changes, and where one cell does it all, no request enters Crossway. -/
def Claim.CopiesFinish : Prop :=
  ∀ (c : Fin 64) (s : State) (i : Cur) (op : Nat) (ins : Instr), copyRow c op ins → s.Begins c op i →
    (op = opCvt → i.combinePath = false) →
    ∃ u, exec ins s = .next u ∧ s.DataMoved c i u ∧ (i.hasStack = false → u.stks = s.stks ∧
      (i.cells.length = 1 → (∀ k, i.cellAxis k = none) → u.xb = s.xb))

/-- R107: a PERM between two staging tensors of one format, each cell with its own: the destination element at index j holds,
bit for bit, the source element i with j[k] = i[AXMAP[k]], or EXTENT[k] - 1 - i[AXMAP[k]] under REV. -/
def Claim.PermPlacesElements : Prop :=
  ∀ (c : Fin 64) (s : State) (i : Cur) (a d : TDesc), s.Begins c opPerm i →
    i.descAt 0 = some a → i.descAt 1 = some d → i.descAt 4 = none → i.tileAt 0 = none → i.tileAt 1 = none →
    a.space = 1 → d.space = 1 → i.cellAxis 0 = none → i.cellAxis 1 = none →
    a.fmt = d.fmt → fmtMx d.f = false → i.cells.Nodup → i.pos = [] → a.rank = d.rank → d.rank ≤ 8 →
    (∀ k, k < d.rank → i.axmap k < d.rank) → (∀ k, k < d.rank → ∀ l, l < d.rank → i.axmap k = i.axmap l → k = l) →
    (∀ x ∈ indices d.exts, ∀ y ∈ indices d.exts, x ≠ y → Loc.Apart (descLoc d none (fun _ => .cell 0) x) (descLoc d none (fun _ => .cell 0) y)) →
    (∀ x ∈ indices d.exts, ∀ y ∈ indices a.exts, Loc.Apart (descLoc d none (fun _ => .cell 0) x) (descLoc a none (fun _ => .cell 0) y)) →
    (∀ k, k < d.rank → d.e k = a.e (i.axmap k)) →
    ∃ u, exec (.perm c) s = .next u ∧
      ∀ g ∈ i.cells, ∀ j ∈ indices d.exts, ∀ x ∈ indices a.exts,
        (∀ k, k < d.rank → j.getD k 0 = if i.permRev k then d.e k - 1 - x.getD (i.axmap k) 0 else x.getD (i.axmap k) 0) →
        u.readLoc (descLoc d none (fun _ => .cell g) j) = s.readLoc (descLoc a none (fun _ => .cell g) x)

/-- R105: the source coordinate that the unit reads for a destination coordinate is the one that ROT's index function sends
there. -/
def Claim.RotIndexInverse : Prop :=
  ∀ (n x ib : Nat) (shift skew : Int) (rev : Bool), x < n →
    rotIndex n x shift rev skew ib < n ∧ rotSource n (rotIndex n x shift rev skew ib) shift rev skew ib = x
      ∧ ((rotIndex n x shift rev skew ib : Nat) : Int)
          = ((if rev then (n : Int) - 1 - x else x) + skew * ib + shift) % (n : Int)

/-- R33: writing elements changes exactly their bits: elements that lie apart in cell memories each read back as written, and
every element apart from all of them, in the same byte or not, keeps its bits. -/
def Claim.WritesKeepNeighbours : Prop :=
  ∀ (s : State) (ws : List (Loc × Nat)), (∀ w ∈ ws, ∃ g, w.1.place = .cell g) →
    ws.Pairwise (fun a b => Loc.Apart a.1 b.1) →
    (∀ w ∈ ws, (s.writeLocs ws).readLoc w.1 = w.2 % 2 ^ w.1.bits)
      ∧ ∀ (l : Loc) (g : Nat), l.place = .cell g → (∀ w ∈ ws, Loc.Apart l w.1) → (s.writeLocs ws).readLoc l = s.readLoc l

/-- R57, R67: a finite value that a floating-point format holds converts back to its own bits in every rounding mode, and sets no
sticky bit. -/
def Claim.EncodeExactIsIdentity : Prop :=
  ∀ (f : Nat) (k : FloatFmt) (w : Nat) (r : Rnd) (sat neg : Bool) (m : Nat) (e : Int), floatFmt f = some k → w < 2 ^ fmtBits f →
    decodeElem f w = .fin neg m e → encodeElem f r sat (.fin neg m e) = (w, 0)

/-- R68: what a floating-point format cannot hold. A finite value beyond Max after rounding to nearest gives infinity (formats
that have one), NaN (E4M3) or Max; with SAT = 1, Max; under RTZ, Max whatever SAT holds. -/
def Claim.OverflowRows : Prop :=
  ∀ (k : FloatFmt) (neg sat : Bool) (m : Nat) (e : Int), m ≠ 0 →
    roundCount .rne m e (k.quantum m e) ≠ 0 → roundCount .rtz m e (k.quantum m e) ≠ 0 →
    (magLt k.maxFin.1 k.maxFin.2 (roundCount .rne m e (k.quantum m e)) (k.quantum m e) = true →
      encodeFloatFin k .rne sat neg m e = (match k.special, sat with
        | .ieee, false => (k.packInf neg, flagOvfInf)
        | .nanOnly, false => (k.packNan neg, flagOvfNan)
        | _, _ => (k.packMax neg, flagSaturated)))
    ∧ (magLt k.maxFin.1 k.maxFin.2 m e = true → encodeFloatFin k .rtz sat neg m e = (k.packMax neg, flagSaturated))

/-- R70: RNE gives the nearest multiple of the unit, the even one on a tie; RTZ never rounds a magnitude up. -/
def Claim.RoundingModes : Prop :=
  ∀ (m : Nat) (j : Nat),
    let d := 2 ^ j
    let n := roundCount .rne m 0 j
    let z := roundCount .rtz m 0 j
    (2 * (n * d) ≤ 2 * m + d ∧ 2 * m ≤ 2 * (n * d) + d) ∧ (2 * (m % d) = d → 0 < j → n % 2 = 0) ∧ z * d ≤ m ∧ m < (z + 1) * d

/-- R124: an index in range is accepted as it is; outside, FAULT raises INDEX_NEG or INDEX_RANGE, WRAP adds n once to a negative one,
CLAMP takes the nearer end and ZERO drops the position. -/
def Claim.IndexModes : Prop :=
  ∀ (x : Int) (n : Nat),
    (0 ≤ x → x < n → ∀ mode, applyMode x n mode = .ok x.toNat)
    ∧ (x < 0 → applyMode x n 0 = .bad 0x08 ∧ applyMode x n 2 = .ok 0 ∧ applyMode x n 3 = .drop
        ∧ applyMode x n 1 = (if 0 ≤ x + n then .ok (x + n).toNat else .bad 0x08))
    ∧ ((n : Int) ≤ x → 0 ≤ x → applyMode x n 0 = .bad 0x07 ∧ applyMode x n 1 = .bad 0x07 ∧ applyMode x n 2 = .ok (n - 1)
        ∧ applyMode x n 3 = .drop)

/-- R140: HIST counts the positions of a bucket; with no capacity every accepted position p is kept, its slot q = INV[p] has
SPOS[q] = p, and slots rise with the bucket, then with the position. -/
def Claim.BucketOutputs : Prop :=
  ∀ (keys : List (Option Nat)) (b : Nat), (∀ k ∈ keys, ∀ x, k = some x → x < b) →
    let o := bucketOut keys b 0 false
    (∀ x, x < b → o.hist[x]? = some ((keys.filter (fun k => decide (k = some x))).length))
    ∧ (∀ p, p < keys.length → (keys.getD p none = none ↔ o.inv.getD p 0 = -1))
    ∧ (∀ p q, p < keys.length → o.inv.getD p (-1) = (q : Nat) → o.spos[q]? = some (p : Int))
    ∧ (∀ p p' x x', p < keys.length → p' < keys.length → keys.getD p none = some x → keys.getD p' none = some x' →
        (x < x' ∨ (x = x' ∧ p < p')) → o.inv.getD p 0 < o.inv.getD p' 0)

/-- R143: sorting keeps every key with its position, orders no key after a greater one, and keeps equal keys in order of
position, in both directions. -/
def Claim.SortIsStable : Prop :=
  ∀ (asc : Bool) (l : List (Sys2Proof.Num × Nat)), (∀ a ∈ l, ∀ s, a.1 ≠ .free s) → l.Pairwise (fun a b => a.2 < b.2) →
    (sortKeys asc l).Perm l
      ∧ (sortKeys asc l).Pairwise (fun a b =>
          (if asc then keyLt b.1 a.1 else keyLt a.1 b.1) = false
            ∧ ((if asc then keyLt a.1 b.1 else keyLt b.1 a.1) = false → a.2 < b.2))

/-- R125, R128, R144: a GATHER that accepts every index moves all its data; one with a faulting index stops the context with
INDEX_NEG or INDEX_RANGE, and HEAD stays; a SORTK whose rows hold at most 4,096 keys moves all its data in one step, a longer
one goes through its phases, three for each pass (their number: log 19, DESIGN CHOICE). -/
def Claim.GatherSortkCases : Prop :=
  (∀ (c : Fin 64) (s : State) (i : Cur), s.Begins c opGather i → (s.ctx c).gen.abortBit = false →
    let left := fun (w : Nat) => decide (i.pos.getD 1 0 ≤ w)
    ∃ u, exec (.gather c) s = .next u
      ∧ ((s.begun c i).1.gatherFault c (s.begun c i).2 0 left = none → s.DataMoved c i u)
      ∧ (∀ f, (s.begun c i).1.gatherFault c (s.begun c i).2 0 left = some f → (u.ctx c).run.st = .stopped
          ∧ (u.ctx c).run.fcode.toNat = f.code % 256 ∧ (u.ctx c).run.head = (s.ctx c).run.head))
  ∧ ∀ (c : Fin 64) (s : State) (i : Cur), s.Begins c opSortk i →
    ∃ u, exec (.sortk c) s = .next u
      ∧ ((i.slotExts 0).getD 0 0 ≤ 4096 → s.DataMoved c i u)
      ∧ (4096 < (i.slotExts 0).getD 0 0 → ∃ k, u.head c = some k ∧ k.phase = .moving ∧ k.word = i.word
          ∧ k.steps = 3 * i.sortPasses * (i.slotExts 0).getD 1 1)

/-- R136, R138, R139, R142: with accepted indices, a SCATTER whose S, I and D lie in cells moves all its data at once (unless COMBINE =
FAULT finds a slot named twice); one with any of them in a stack, a BUCKET and a CVT on the combine path enter their phases, whose numbering is the model's (log
19, DESIGN CHOICE). -/
def Claim.IndexPhasesBegin : Prop :=
  (∀ (c : Fin 64) (s : State) (i : Cur), s.Begins c opScatter i →
    (i.recs = none → (s.begun c i).1.gatherFault c (s.begun c i).2 2 (fun _ => true) = none) →
    ∃ u, exec (.scatter c) s = .next u
      ∧ ((∀ k, k < 3 → i.slotSpace k = 1) → i.combine ≠ 0 ∨ (s.begun c i).1.scatterClash c (s.begun c i).2 = none → s.DataMoved c i u)
      ∧ ((∃ k, k < 3 ∧ i.slotSpace k ≠ 1) →
          ∃ k, u.head c = some k ∧ k.phase = .moving ∧ k.word = i.word ∧ k.steps = if i.combine = 0 then 5 else 4))
  ∧ (∀ (c : Fin 64) (s : State) (i : Cur), s.Begins c opBucket i →
    (i.step = 0 → (s.begun c i).1.gatherFault c (s.begun c i).2 0 (fun _ => true) = none) →
    ∃ u k, exec (.bucket c) s = .next u ∧ u.head c = some k ∧ k.phase = .moving ∧ k.word = i.word ∧ k.steps = 3)
  ∧ ∀ (c : Fin 64) (s : State) (i : Cur), s.Begins c opCvt i → i.combinePath = true →
    ∃ u k, exec (.cvt c) s = .next u ∧ u.head c = some k ∧ k.phase = .moving ∧ k.word = i.word ∧ k.steps = 4

/-- R51, R136, R142: a phase of SCATTER, BUCKET or the combine path ends. Before the last one the instruction goes to its next phase,
unless what the phase found stops it (the run limit, a collision under FAULT); after the last its data has moved. A phase of SORTK ends
likewise. A window no longer resident stops the context at the phase instead, and so does an engaged slice whose active configuration
fails its parity (R365). -/
def Claim.PhaseBarrier : Prop :=
  ∀ (c : Fin 64) (s : State) (i : Cur), s.movingHead c = some i → (s.ctx c).gen.abortBit = false →
    (s.upsetSlice i = none → ∃ u, exec (.indexPhaseBarrier c) s = .next u
      ∧ (s.resident c i = true → i.is opSortk = false →
          (i.step < i.steps → s.phaseFault c i = none → ∃ k, u.head c = some k ∧ k.phase = .moving ∧ k.step = i.step + 1 ∧ k.word = i.word
            ∧ u.stks = s.stks ∧ u.cells = s.cells ∧ (u.ctx c).run = (s.ctx c).run)
          ∧ (∀ f, i.step < i.steps → s.phaseFault c i = some f → (u.ctx c).run.st = .stopped ∧ (u.ctx c).run.fcode.toNat = f.code % 256
            ∧ (u.ctx c).run.head = (s.ctx c).run.head)
          ∧ (i.steps ≤ i.step → ∃ k, u.head c = some k ∧ k.phase = .moved ∧ k.word = i.word))
      ∧ (s.resident c i = true → i.is opSortk = true → ∃ k, u.head c = some k ∧ k.word = i.word
          ∧ (i.step + 1 < i.steps → k.phase = .moving ∧ k.step = i.step + 1) ∧ (i.steps ≤ i.step + 1 → k.phase = .moved))
      ∧ (s.resident c i = false → (u.ctx c).run.st = .stopped ∧ (u.ctx c).run.fcode = 0x04 ∧ (u.ctx c).run.resumable = true
          ∧ (u.ctx c).run.head = (s.ctx c).run.head))
    ∧ ∀ n, s.upsetSlice i = some n → ∃ u, exec (.indexPhaseBarrier c) s = .next u ∧ (u.ctx c).run.st = .stopped
        ∧ (u.ctx c).run.fcode = 0x11 ∧ (u.ctx c).run.resumable = false ∧ (u.ctx c).run.head = (s.ctx c).run.head

/-- R29: an instruction that names an empty tensor completes without moving data: its movement is over, and nothing changes but that and, where an
operand that it writes lies in write-aside space and no generation is open, the generation it opens. R162 opens one and R29 gives a generation
nothing of such an operand: that one opens all the same is the model's choice (log 94). -/
def Claim.EmptyMovesNothing : Prop :=
  ∀ (c : Fin 64) (s : State) (i : Cur) (op : Nat) (ins : Instr),
    copyRow c op ins ∨ (op = opTload ∧ ins = .tload c) ∨ (op = opGather ∧ ins = .gather c) ∨ (op = opScatter ∧ ins = .scatter c)
      ∨ (op = opBucket ∧ ins = .bucket c) ∨ (op = opSortk ∧ ins = .sortk c) →
    s.readyHead c op .ready = some i → i.anyEmpty = true →
    exec ins s = .next ((s.implicitGen c i).setHead c { i with phase := .moved, halted := false, recheck := false })

/-- R205, R420: an instruction of one of these rows that reaches its halt point for a host STOP leaves the context STOPPED and
resumable at it, with its kept copies. -/
def Claim.HaltPointStops : Prop :=
  ∀ (c : Fin 64) (s : State) (i : Cur) (op : Nat) (ins : Instr) (progress : List Nat),
    copyRow c op ins ∨ (op = opTload ∧ ins = .tload c) → s.Begins c op i → i.hasHaltPoint = true →
    (op = opCvt → i.combinePath = false) → (s.ctx c).run.stopReq = true → (s.ctx c).gen.abortBit = false →
    ∃ u k, exec (.haltPointReached c progress) s = .next u ∧ u.head c = some k ∧ (u.ctx c).run.st = .stopped
      ∧ (u.ctx c).run.resumable = true ∧ (u.ctx c).run.head = (s.ctx c).run.head ∧ k.halted = true ∧ k.word = i.word ∧ k.descs = i.descs
      ∧ ((u.ctx c).run.cause = 1 ∨ ((u.ctx c).run.cause = 3 ∧ (u.ctx c).run.fcode = 0x04))
/-! ## Streams and the edge link -/

/-- R210, R222, R223: SOPEN opens the queue in every engaged cell for the context: OPEN, empty, its tags from TAG0, and with
DIR = 0 DEPTH less the tokens held at the edge tile as credits. HEAD moves. -/
def Claim.SopenOpensQueues : Prop :=
  ∀ (c : Fin 64) (s : State) (i : Cur) (d : SDesc), s.Begins c opSopen i → i.stream = some d → s.NothingDue c →
    ∃ u, exec (.sopen c) s = .next u ∧ s.HeadMoved c u
      ∧ ∀ g ∈ i.cells,
          let x := u.queue g i.queueNo
          x.st = .opened ∧ x.owner = c ∧ x.dir = bitAt i.word.toNat 41
          ∧ x.sem = field i.word.toNat 40 31 ∧ x.limit = field i.word.toNat 47 42 + 1 ∧ x.sd = d ∧ x.nextTag = d.tag0
          ∧ x.blocks = [] ∧ x.staged = []
          ∧ x.credits = (if bitAt i.word.toNat 41 then 0 else d.depth - ((s.cell g).chan i.queueNo).held)

/-- R214, R216: SBLOCK appends its block in every engaged cell and retires while every queue has room and carries no Carousel;
otherwise it waits, and no queue changes. -/
def Claim.SblockAppendsOrWaits : Prop :=
  ∀ (c : Fin 64) (s : State) (i : Cur) (d : TDesc), s.Begins c opSblock i → i.descAt 0 = some d → s.NothingDue c → i.cells.Nodup →
    ∃ u, exec (.sblock c) s = .next u
      ∧ (s.queueRoom i = true → s.HeadMoved c u ∧ ∀ e ∈ i.cells.zipIdx,
          (u.queue e.1 i.queueNo).blocks = (s.queue e.1 i.queueNo).blocks ++ [s.blockFor c i d e.2])
      ∧ (s.queueRoom i = false → (u.ctx c).run.head = (s.ctx c).run.head ∧ (∀ g q, u.queue g q = s.queue g q)
          ∧ ∃ k, u.head c = some k ∧ k.phase = .waiting ∧ k.word = i.word)

/-- R210, R220: SCLOSE acts in each engaged cell by the state of the queue there, and retires. -/
def Claim.ScloseByState : Prop :=
  ∀ (c : Fin 64) (s : State) (i : Cur), s.Begins c opSclose i → s.NothingDue c → i.cells.Nodup →
    ∃ u, exec (.sclose c) s = .next u ∧ s.HeadMoved c u
      ∧ ∀ g ∈ i.cells,
          let x := s.queue g i.queueNo
          let y := u.queue g i.queueNo
          if x.st = .closed ∨ x.st = .faulted ∨ bitAt i.word.toNat 91 = true then y.st = .closed
          else y.st = (if x.st = .halted then .halted else .closing) ∧ y.sd = x.sd ∧ y.owner = x.owner
            ∧ ((∀ h ∈ i.cells, (s.queue h i.queueNo).st ≠ .faulted) →
                y = if x.st = .halted then { x with closeRec := true } else { x with st := .closing })

/-- R230: CAROUSEL starts rotation on its queue in every engaged cell: slot 0 of its region is appended as one block. Where a queue has
no room for it, it waits, and no queue changes (log 107). -/
def Claim.CarouselStarts : Prop :=
  ∀ (c : Fin 64) (s : State) (i : Cur) (d : TDesc), s.Begins c opCarousel i → i.descAt 0 = some d → s.NothingDue c →
    i.cells.Nodup →
    ∃ u, exec (.carousel c) s = .next u
      ∧ (s.queueRoom i = true → s.HeadMoved c u ∧ ∀ g ∈ i.cells, ∃ k, (u.queue g i.queueNo).carousel = some k ∧ k.step = field i.word.toNat 47 42
          ∧ k.left = field i.word.toNat 41 26 ∧ k.endless = decide (field i.word.toNat 41 26 = 0) ∧ k.desc = d
          ∧ (u.queue g i.queueNo).blocks = (s.queue g i.queueNo).blocks ++ [k.block])
      ∧ (s.queueRoom i = false → (u.ctx c).run.head = (s.ctx c).run.head ∧ (∀ g q, u.queue g q = s.queue g q)
          ∧ ∃ k, u.head c = some k ∧ k.phase = .waiting ∧ k.word = i.word)

/-- R230, R231: where all 64 cells of a slice rotate in step, a rotation leaves in cell (p + STEP) mod 64 the bytes of the region
that cell p delivered. After the last rotation the Carousel is gone; after another one, unless its queue is closing, the regions have
swapped, one rotation less is left, and the next delivery is appended. -/
def Claim.CarouselRotates : Prop :=
  ∀ (n : Fin 12) (q : BitVec 4) (s : State) (k : Carousel), n.val < s.nSlices → s.rotationReady n q.toNat = true →
    (∀ p, p < 64 → (s.queue (64 * n + p) q.toNat).carousel = some k) → (s.region n).upset = [] →
    ∃ u, exec (.carouselRotation n q) s = .next u
      ∧ (∀ p, p < 64 →
          (u.cell (64 * n + (p + k.step) % 64)).mem.read (k.there.lo none).toNat (k.here.hi none + 1 - k.here.lo none).toNat
            = s.regionBytes (64 * n + p) k.here)
      ∧ (∀ p, p < 64 → k.endless = false → k.left = 1 → (u.queue (64 * n + p) q.toNat).carousel = none)
      ∧ (∀ p, p < 64 → (k.endless = true ∨ 1 < k.left) → (s.queue (64 * n + p) q.toNat).st ≠ .closing →
          (s.queue (64 * n + p) q.toNat).closeRec = false →
          ∃ j, (u.queue (64 * n + p) q.toNat).carousel = some j ∧ j.swapped = !k.swapped ∧ j.left = k.left - 1 ∧ j.endless = k.endless
            ∧ j.step = k.step ∧ j.desc = k.desc
            ∧ (u.queue (64 * n + p) q.toNat).blocks = (s.queue (64 * n + p) q.toNat).blocks ++ [j.block])
      ∧ (∀ g, g / 64 ≠ n.val → u.cell g = s.cell g)

/-- R220: a CLOSING queue whose last block has completed becomes CLOSED and releases its staging; one that still has a block
does not change. -/
def Claim.ClosingQueueCloses : Prop :=
  ∀ (g : Fin 768) (q : BitVec 4) (s : State), (s.queue g q.toNat).st = .closing →
    ((s.queue g q.toNat).blocks ≠ [] → exec (.queueClosed g q) s = .next s)
    ∧ ((s.queue g q.toNat).blocks = [] → (s.queue g q.toNat).carousel = none →
        ∃ u, exec (.queueClosed g q) s = .next u ∧ u.queue g q.toNat = Queue.closed
          ∧ (∀ h p, (h, p) ≠ (g.val, q.toNat) → u.queue h p = s.queue h p) ∧ u.stks = s.stks ∧ u.ctxs = s.ctxs)

/-- R225: a cell grants a resource to a queue that asks for it, and no queue that asks for it is more urgent, nor as urgent with a
lower number; it grants none only where none asks. -/
def Claim.GrantIsMostUrgent : Prop :=
  ∀ (s : State) (g : Nat) (r : Resource),
    (∀ q, q < 16 → s.wants g q r = true → 0 < (s.queue g q).rateNum s.beatPeriod) →
    (s.grant g r = none → ∀ q, q < 16 → s.wants g q r = false)
    ∧ ∀ q, s.grant g r = some q → q < 16 ∧ s.wants g q r = true
        ∧ ∀ p, p < 16 → s.wants g p r = true → s.moreUrgent g r p q = false ∧ (s.moreUrgent g r q p = false → q ≤ p)

/-- R221, R222, R225: the edge link's grant to a queue that is not steered sends its front token with the next tag: one credit is
used, the edge tile holds one token more, and the queue goes to its next token. -/
def Claim.TokenSent : Prop :=
  ∀ (g : Fin 768) (s : State) (q : Nat) (b : Block) (k : Nat), s.grant g .edge = some q → (s.queue g q).sd.steer = 0 →
    (s.queue g q).sendAt = some (b, k) →
    ∃ u t, exec (.streamTokenSend g .edge) s = .next u ∧ (u.cell g).lastTx = some t ∧ t.tag = (s.queue g q).nextTag
      ∧ t.data = (s.queue g q).staged.headD [] ∧ t.chan = BitVec.ofNat 4 q ∧ t.epoch = epochOf s g
      ∧ t.first = decide (b.done = 0) ∧ t.last = decide (b.done + 1 = b.tokens)
      ∧ (u.queue g q).nextTag = (s.queue g q).nextTag + 1 ∧ (u.queue g q).staged = (s.queue g q).staged.drop 1
      ∧ (u.queue g q).credits = (s.queue g q).credits - 1
      ∧ ((u.cell g).chan q).held = ((s.cell g).chan q).held + 1 ∧ u.stks = s.stks ∧ u.ctxs = s.ctxs

/-- R221, R222, R229, R235: a token for an open DIR = 1 queue with a ring, of the current layer, with a credit and the cell's
epoch, takes the next place of the ring and uses the credit; one without a credit fences the cell. -/
def Claim.DataTokenLands : Prop :=
  ∀ (g : Fin 768) (t : Token) (s : State), t.wf = true → s.tap.pinsHeld = false → s.heldBack g = false →
    ((s.cell g).chan t.chan.toNat).stale = 0 →
    let x := s.queue g t.chan.toNat
    (x.st = .opened → x.dir = true → 0 < ((s.cell g).chan t.chan.toNat).granted → t.epoch = epochOf s g → s.inLayer x = true →
      0 < x.ring →
      ∃ u, exec (.dataTokenReceive g t) s = .next u ∧ (u.queue g t.chan.toNat).staged = x.staged ++ [t.data]
        ∧ ((u.cell g).chan t.chan.toNat).granted = ((s.cell g).chan t.chan.toNat).granted - 1
        ∧ (u.cell g).mem = (s.cell g).mem ∧ u.stks = s.stks)
    ∧ (((s.cell g).chan t.chan.toNat).granted = 0 → exec (.dataTokenReceive g t) s = .next (s.fenceCell g 4))

/-- R233, R235: a control token of the cell's epoch with the tag expected waits for its data token; one for a CLOSED queue is
discarded and changes nothing. -/
def Claim.ControlTokenWaits : Prop :=
  ∀ (g : Fin 768) (t : CtlToken) (s : State), s.tap.pinsHeld = false → s.heldBack g = false →
    let x := s.queue g t.chan.toNat
    let k := (s.cell g).chan t.chan.toNat
    (x.st = .closed → exec (.controlTokenReceive g t) s = .next s)
    ∧ (x.st = .opened → t.epoch = epochOf s g → x.sd.steer ≠ 0 → t.tag = x.nextTag + BitVec.ofNat 16 k.ctl.length →
        k.ctl.length < 16 →
        ∃ u, exec (.controlTokenReceive g t) s = .next u ∧ ((u.cell g).chan t.chan.toNat).ctl = k.ctl ++ [t]
          ∧ u.queue g t.chan.toNat = x ∧ (u.cell g).mem = (s.cell g).mem ∧ u.stks = s.stks ∧ u.ctxs = s.ctxs)

/-- R222, R223: a credit return of at most the tokens held lowers the held count and gives an open DIR = 0 queue DEPTH less what
is held; more than that, or a parity failure, fences the cell, as does a failed READY sample (R407). -/
def Claim.CreditsReturned : Prop :=
  ∀ (g : Fin 768) (chan n : BitVec 4) (s : State), s.tap.pinsHeld = false →
    let k := (s.cell g).chan chan.toNat
    (n.toNat + 1 ≤ k.held →
      ∃ u, exec (.creditReturn g chan n true) s = .next u ∧ ((u.cell g).chan chan.toNat).held = k.held - (n.toNat + 1)
        ∧ ((s.queue g chan.toNat).st = .opened → (s.queue g chan.toNat).dir = false →
            (u.queue g chan.toNat).credits = (s.queue g chan.toNat).sd.depth - (k.held - (n.toNat + 1)))
        ∧ (u.cell g).mem = (s.cell g).mem ∧ u.stks = s.stks ∧ u.ctxs = s.ctxs)
    ∧ (k.held < n.toNat + 1 → exec (.creditReturn g chan n true) s = .next (s.fenceCell g 4))
    ∧ exec (.creditReturn g chan n false) s = .next (s.fenceCell g 4)
    ∧ exec (.readyParityError g) s = .next (s.fenceCell g 4)

/-- R366, R367: a fence for an uncorrectable error takes a cell that no spare serves out of service: DOWN, without owner, tiles or
open queues. Every user that is not STOPPED, or is STOPPED with RESUMABLE 1 (log 129), and has no flip in progress, is STOPPED with CAUSE
FAULT and code TIMEOUT, its generation as it was. R359: GLB_FAULT records the code, SOURCE 2, the physical cell and the cause where it
held no event, or else counts one event more and keeps its fields; its interrupt is pending. -/
def Claim.FenceTakesCellDown : Prop :=
  ∀ (g : Fin 768) (cause : Fin 3) (s : State), g.val < s.nCells → s.cellDown g = false →
    (s.slice (g / 64)).spareOf (g % 64) = none →
    ∃ u, exec (.eccUncorrectable g cause) s = .next u ∧ u.cellDown g = true ∧ (u.cell g).owner = none
      ∧ (∀ k, (u.cell g).tile k = TileRec.empty) ∧ (∀ q, (u.queue g q).st = .closed)
      ∧ ((∀ c i, s.head c = some i → i.phase ≠ .moved ∧ i.phase ≠ .moving ∧ i.halted = false) →
          ∀ h, h ≠ g.val → (u.cell h).mem = (s.cell h).mem)
      ∧ (∀ c, c ∈ s.usersOf g → ((s.ctx c).run.st ≠ .stopped ∨ (s.ctx c).run.resumable = true) → (s.ctx c).gen.flip = .none → (s.ctx c).gen.abortBit = false →
          (u.ctx c).run.st = .stopped ∧ (u.ctx c).run.cause = 3 ∧ (u.ctx c).run.fcode = 0x0A
            ∧ (u.ctx c).run.resumable = false ∧ (u.ctx c).gen = (s.ctx c).gen)
      ∧ bitAt u.glb.irq.toNat 2 = true
      ∧ (let f := s.glb.fault.toNat
         let e := u.glb.fault.toNat
         bitAt e 0 = true ∧ field e 63 48 = min 0xFFFF (field f 63 48 + 1)
          ∧ (bitAt f 0 = false → field e 47 40 = 0x0A ∧ field e 39 36 = 2 ∧ field e 35 24 = s.physCell g ∧ field e 23 8 = cause.val + 1)
          ∧ (bitAt f 0 = true → bitAt e 1 = true ∧ field e 47 2 = field f 47 2))

/-- R365, at the Carousel's use of the routing words: where a slice that is ready to rotate has a frame whose parity fails, the frame goes to
the rewrite and no cell's memory or queues' blocks shift; that the queue's context then stops at its next instruction boundary is log 136,
the model's reading, and no clause here. -/
def Claim.UpsetHoldsRotation : Prop :=
  ∀ (n : Fin 12) (q : BitVec 4) (s : State) (f : Nat), n.val < s.nSlices → s.rotationReady n q.toNat = true →
    (s.region n).upset.head? = some f →
    ∃ u, exec (.carouselRotation n q) s = .next u ∧ (u.region n).mending = [f]
      ∧ (∀ p, p < 64 → (u.queue (64 * n + p) q.toNat).carousel = (s.queue (64 * n + p) q.toNat).carousel
          ∧ (u.queue (64 * n + p) q.toNat).blocks = (s.queue (64 * n + p) q.toNat).blocks)
      ∧ ((∀ c i, s.head c = some i → i.phase ≠ .moving ∧ i.halted = false) → ∀ g, (u.cell g).mem = (s.cell g).mem)

/-- R233: a steered queue one of whose sides waits past PAIR_TIMEOUT becomes FAULTED. -/
def Claim.PairTimeoutFaults : Prop :=
  ∀ (g : Fin 768) (chan : BitVec 4) (s : State), (s.queue g chan.toNat).st = .opened → (s.queue g chan.toNat).dir = false →
    (s.queue g chan.toNat).sd.steer = 1 → (s.frontSel g chan.toNat).isSome ≠ s.frontReady g chan.toNat →
    ∃ u, exec (.pairTimeout g chan) s = .next u ∧ (u.queue g chan.toNat).st = .faulted
      ∧ (u.queue g chan.toNat).blocks = (s.queue g chan.toNat).blocks

/-- R217, R230: a block whose part is complete in every cell, and which no other slice's Carousel has still to deliver, is recorded once:
its pair's counter (FREE for DIR = 0, FILLED for DIR = 1) rises by one and the block leaves every cell's queue. -/
def Claim.BlockSignalledOnce : Prop :=
  ∀ (c : Fin 64) (q : BitVec 4) (id : Nat) (s : State) (g : Nat) (ok : Bool) (rest : List (Nat × Bool)) (b : Block) (o p : Nat),
    s.blockCells c q.toNat id = (g, ok) :: rest → (s.blockCells c q.toNat id).all (·.2) = true →
    s.awaitsSlice c q.toNat id = false → ((s.blockCells c q.toNat id).map (·.1)).Nodup → (s.queue g q.toNat).blocks.head? = some b →
    (s.blockCells c q.toNat id).length = b.cells → s.semPair c (s.queue g q.toNat).sem = some (o, p) →
    (s.semGet o p (!(s.queue g q.toNat).dir)).toNat + 1 < 2 ^ 32 →
    ∃ u, exec (.blockComplete c q id) s = .next u
      ∧ (u.semGet o p (!(s.queue g q.toNat).dir)).toNat = (s.semGet o p (!(s.queue g q.toNat).dir)).toNat + 1
      ∧ (∀ e ∈ s.blockCells c q.toNat id, (u.queue e.1 q.toNat).blocks = (s.queue e.1 q.toNat).blocks.drop 1
          ∧ (u.queue e.1 q.toNat).blockNo = (s.queue e.1 q.toNat).blockNo + 1)
      ∧ u.stks = s.stks

/-- R225: at the end of a window the measured rate of an open queue is the count of the window, and counting starts over. -/
def Claim.RateMeasured : Prop :=
  ∀ (g : Fin 768) (q : BitVec 4) (s : State), (s.queue g q.toNat).st ≠ .closed →
    exec (.rateWindowEnd g q) s = .next (s.updQueue g q.toNat (fun x => { x with measured := x.counted, counted := 0, history := true }))

/-! ## The beat -/

/-- R227, R228: with every READY bit 1 the edge issues: COUNT is one more, no edge is held, and BEAT_HELD has counted the held cycles (R379);
with a READY bit 0 the edge is held and COUNT stays. -/
def Claim.BeatEdgeIssuesOrHolds : Prop :=
  ∀ (l : List (Nat × BitVec 16)) (cycles us : Nat) (s : State), s.ready = true → s.beatOn = true → s.crossRuns = true →
    (s.readyZero l = [] → ∃ u, exec (.beatEdge l cycles us) s = .next u ∧ u.beat.count = s.beat.count + 1 ∧ u.beat.held = false
      ∧ u.beat.lastMark = s.beat.mark ∧ u.beat.mark = false ∧ u.beat.layer = s.beat.layer
      ∧ u.glb.beatHeld.toNat = min (2 ^ 64 - 1) (s.glb.beatHeld.toNat + cycles) ∧ u.cells = s.cells ∧ u.ctxs = s.ctxs)
    ∧ (s.readyZero l ≠ [] → ∃ u, exec (.beatEdge l cycles us) s = .next u ∧ u.beat.count = s.beat.count ∧ u.beat.held = true
      ∧ u.beat.notReady = s.readyZero l ∧ u.cells = s.cells ∧ u.ctxs = s.ctxs ∧ u.glb = s.glb)

/-- R227: an edge held too long raises TIMEOUT in every queue whose READY bit is 0; it stays held. -/
def Claim.StretchTimeoutFaults : Prop :=
  ∀ (s : State), s.beatOn = true → s.beat.held = true →
    ∃ u, exec .beatStretchTimeout s = .next u ∧ u.beat = s.beat
      ∧ ∀ e ∈ s.beat.notReady, ∀ q, q < 16 → bitAt e.2.toNat q = true → (s.queue e.1 q).st ≠ .closed →
          (u.queue e.1 q).st = .faulted

/-- R229: with no open queue on the current layer and some open queue on another, the current layer becomes one that an open
queue carries, none of them nearer (mod 2^16), the next edge carries the mark, and FILL is set. -/
def Claim.LayerAdvances : Prop :=
  ∀ (s : State), s.openQueues ≠ [] → (∀ e ∈ s.openQueues, e.2.2.sd.layer ≠ s.beat.layer) →
    ∃ u, exec .layerAdvance s = .next u ∧ u.beat.mark = true ∧ u.beat.fill = true
      ∧ (∃ e ∈ s.openQueues, e.2.2.sd.layer = u.beat.layer)
      ∧ (∀ e ∈ s.openQueues, (u.beat.layer - s.beat.layer).toNat ≤ (e.2.2.sd.layer - s.beat.layer).toNat)
      ∧ u.beat.count = s.beat.count ∧ u.cells = s.cells ∧ u.ctxs = s.ctxs
/-! ## Fabric time -/

/-- R327, R331, R332, log 13: on an empty queue, with no request of another node held or being resolved, a step is one CONTROL cycle. Once the unit has
power, fabric time, in units of 2^-32 ns, advances by the increment of its clock branch plus the correction of the time discipline,
which stays within 200 ppm of the increment. VALID returns where a step of the counter left it to, and a crossing of a multiple of
SYNC_OUT_PERIOD makes a pulse due while SYNC_OUT_EN and VALID are 1. Beside these only the ages of coasting and of operating-point
transitions move, CUR of an island whose point is being changed, CTX_PERF_SETUP of each context whose instruction waits at cell
setup, which counts two datapath cycles (R379), and SLC_ECC_CORR of each slice of the build, which never falls. How much it gains, any
number, is the model's choice (log 89). -/
def Claim.TickAdvancesTime : Prop :=
  ∀ (s : State), s.pending = [] → s.fab.heldWrites = [] → s.fab.resolving = [] →
    (s.pwr.step = 0 → step s = .next s)
    ∧ (let r := s.correctErrors
      s.pwr.step ≠ 0 → 0 ≤ (r.increment : Int) + r.adjust r.increment → ∃ t, step s = .next t
        ∧ ((t.time.now.toNat * 2 ^ 16 + t.time.sub.toNat : Nat) : Int)
            = (((s.time.now.toNat * 2 ^ 16 + s.time.sub.toNat : Nat) : Int)
                + ((r.increment : Int) + r.adjust r.increment)) % 2 ^ 80
        ∧ (s.time.adj.natAbs * 5000 ≤ s.time.inc → t.time.adj.natAbs * 5000 ≤ t.time.inc)
        ∧ (s.clk.linkTo = none → t.clk.linkCur = s.clk.linkCur) ∧ (s.clk.stwTo = none → t.clk.stwCur = s.clk.stwCur)
        ∧ (∀ n, n < s.nSlices → (s.slice n).eccCorr.toNat ≤ (t.slice n).eccCorr.toNat
            ∧ t.slice n = { s.slice n with eccCorr := (t.slice n).eccCorr })
        ∧ (∀ n, s.nSlices ≤ n → t.slice n = s.slice n)
        ∧ (∀ c, c < 64 → r.tick.inSetup c = true → t.ctx c = { s.ctx c with perfSetup := satAdd (s.ctx c).perfSetup 2 })
        ∧ (∀ c, 64 ≤ c ∨ r.tick.inSetup c = false → t.ctx c = s.ctx c)
        ∧ t = { s with
            ctxs := t.ctxs
            slices := t.slices
            time := { s.time with
              now := t.time.now, sub := t.time.sub, inc := r.increment, adj := r.adjust r.increment
              valid := s.time.valid || s.time.validNext, validNext := false
              syncDue := bitAt s.time.cfg.toNat 53 && s.time.valid && (s.time.syncDue
                || decide (s.time.now.toNat / s.syncPeriod ≠ t.time.now.toNat / s.syncPeriod)) }
            clk := { s.clk with
              coastAge := t.clk.coastAge, linkAge := t.clk.linkAge, stwAge := t.clk.stwAge, linkCur := t.clk.linkCur
              stwCur := t.clk.stwCur }
            free := t.free })

/-- R320, R327: the increments of the clock branches. While the unit coasts the increment lies between those of the closed loop and of
400 MHz; it grows until 1 us has passed, from when on it is that of 400 MHz, and once the oscillator is proofed it falls back. -/
def Claim.Increments : Prop :=
  ∀ (s : State), 3 ≤ s.pwr.step →
    (selOf s.clk.sel 13 = 1 → s.increment = 10 * 2 ^ 32)
    ∧ (selOf s.clk.sel 13 ≠ 1 → s.clk.coast = false → s.increment = 4908534053)
    ∧ (selOf s.clk.sel 13 ≠ 1 → s.clk.coast = true →
        4908534053 ≤ s.increment ∧ 2 * s.increment ≤ 5 * 2 ^ 32
        ∧ (s.clk.proofed = false → 1000 * 2 ^ 32 ≤ s.clk.coastAge → 2 * s.increment = 5 * 2 ^ 32)
        ∧ (4908534053 ≤ s.time.inc → 2 * s.time.inc ≤ 5 * 2 ^ 32 →
            (s.clk.proofed = false → s.time.inc ≤ s.increment) ∧ (s.clk.proofed = true → s.increment ≤ s.time.inc)))

/-- R327, R331: TIME_SET steps a self-timed node to VALUE: VALID reads 0 and STEPPED is set; it is ignored on a follower and while
SYNC_IN is enabled. -/
def Claim.TimeSetSteps : Prop :=
  ∀ (v : Word) (s : State), s.serving = true →
    (s.selfTimed = true → s.syncOn = false → exec (.timeSet v) s = .next { s with time := { s.time with
        now := v, sub := 0, stepped := true, valid := false, validNext := s.clk.proofed } })
    ∧ (s.selfTimed = false ∨ s.syncOn = true → exec (.timeSet v) s = .next s)

/-- R330: a write of NEXT arms the step at the next edge; an edge while VALID is 0 or armed steps to NEXT; a later one within 10 us
only corrects the rate (by at most 200 ppm); any other is counted in SYNC_REJ. After each accepted or missed edge NEXT advances by
PERIOD milliseconds; a high phase under 20 ns is ignored. -/
def Claim.SyncInEdges : Prop :=
  (∀ (v : Word) (s : State), s.serving = true →
    exec (.syncInNextWrite v) s = .next { s with time := { s.time with syncIn := v, armed := true } })
  ∧ (∀ (n : Nat) (s : State), n < 20 → exec (.syncInEdge n) s = .next s)
  ∧ ∀ (n : Nat) (s : State), 20 ≤ n → s.tap.pinsHeld = false → s.selfTimed = true → s.syncOn = true →
    let at_ : Word := BitVec.ofNat 64 (s.syncNext * 2 ^ 16)
    let off := (at_ - s.time.now).toInt.natAbs
    let advanced := fun (t : State) => t.syncNext = (s.syncNext + field s.time.syncIn.toNat 15 0 * 1000000) % 2 ^ 48
      ∧ field t.time.syncIn.toNat 15 0 = field s.time.syncIn.toNat 15 0
    (∃ t, exec (.syncInEdge n) s = .next t ∧ t = { s with time := t.time, free := t.free }
      ∧ (s.time.valid = false ∨ s.time.armed = true →
          t.time.now = at_ ∧ t.time.sub = 0 ∧ t.time.stepped = true ∧ t.time.valid = false ∧ t.time.validNext = s.clk.proofed
            ∧ t.time.armed = false ∧ advanced t)
      ∧ (s.time.valid = true → s.time.armed = false → off ≤ 10000 * 2 ^ 16 →
          t.time.now = s.time.now ∧ t.time.valid = true ∧ t.time.adj.natAbs * 5000 ≤ s.time.inc ∧ advanced t)
      ∧ (s.time.valid = true → s.time.armed = false → 10000 * 2 ^ 16 < off →
          t.time = { s.time with syncRej := if s.time.syncRej = 0xFFFF then 0xFFFF else s.time.syncRej + 1 }))
    ∧ ∃ t, exec .syncInMissed s = .next t ∧ t = { s with time := { s.time with syncIn := t.time.syncIn } } ∧ advanced t

/-- R332, R416: one pulse of SYNC_OUT for a crossing that a tick has made due, while SYNC_OUT_EN and VALID are both 1; none otherwise, and
none while the test access port holds the pins. -/
def Claim.SyncOutPulses : Prop :=
  ∀ (s : State),
    (s.tap.pinsHeld = false → bitAt s.time.cfg.toNat 53 = true → s.time.valid = true → s.time.syncDue = true →
      exec .syncOutPulse s = .next { s with time := { s.time with syncDue := false, syncOut := s.time.syncOut + 1 } })
    ∧ (s.tap.pinsHeld = true ∨ bitAt s.time.cfg.toNat 53 = false ∨ s.time.valid = false ∨ s.time.syncDue = false →
      exec .syncOutPulse s = .next s)

/-- R283, R329: a TIME frame of the upstream port; its header acts on the link as any header does. While VALID is 0 the first one steps the counter to its corrected value; otherwise
time does not step: an offset above 1 us clears VALID and starts over, a smaller one changes the rate by at most 200 ppm, keeps a
VALID that is set, and sets VALID at the sixteenth consecutive offset within 50 ns. -/
def Claim.FollowerLocks : Prop :=
  ∀ (p : Fin 18) (h : LinkCtl) (v : Word) (s : State), s.tap.pinsHeld = false → s.upport = p.val → (s.port p).isUp = true →
    let at_ := v + (tabGet (0 : BitVec 32) s.time.portDelay p).setWidth 64
    let e := (at_ - s.time.now).toInt
    ∃ t, exec (.timeFrameReceive p ⟨h, v⟩) s = .next t ∧ t = { s.ctlFrame p h with time := t.time, free := t.free }
      ∧ t.time.offset = BitVec.ofInt 32 (max (-(2 ^ 31)) (min (2 ^ 31 - 1) e)) ∧ t.time.holdover = false
      ∧ (s.time.valid = false → s.time.first = true → t.time.now = at_ ∧ t.time.stepped = true ∧ t.time.valid = false)
      ∧ (s.time.valid = true ∨ s.time.first = false → t.time.now = s.time.now
          ∧ (1000 * 2 ^ 16 < e.natAbs → t.time.valid = false ∧ t.time.first = true)
          ∧ (e.natAbs ≤ 1000 * 2 ^ 16 → t.time.adj.natAbs * 5000 ≤ s.time.inc
              ∧ (s.time.valid = true → t.time.valid = true)
              ∧ (s.time.valid = false →
                  t.time.locks = (if e.natAbs ≤ 50 * 2 ^ 16 then s.time.locks + 1 else 0)
                    ∧ t.time.valid = decide (16 ≤ t.time.locks))))

/-- R284, R329: a port that is UP sends TIME frames with the counter; without one for 10 us a follower is in HOLDOVER, VALID kept;
after 10 ms of HOLDOVER VALID clears; a write of UPPORT clears VALID, and on a node that is self-timed before and after it HOLDOVER stays.
Time never steps in these. -/
def Claim.HoldoverRuns : Prop :=
  (∀ (p : Fin 18) (s : State), s.tap.pinsHeld = false → (s.port p).isUp = true →
    exec (.timeFrameSend p) s = .next (s.setPort p ((s.port p).out
      (wire (linkWord 7 0 0 (s.port p).ackNow 0 0) (natLe 8 s.time.now.toNat)))))
  ∧ (∀ (s : State), s.selfTimed = false →
    exec .timeFrameTimeout s = .next { s with time := { s.time with holdover := true } })
  ∧ (∀ (s : State), s.time.holdover = true →
    ∃ t, exec .holdoverExpire s = .next t ∧ t = { s with time := t.time } ∧ t.time.valid = false ∧ t.time.now = s.time.now
      ∧ t.time.holdover = true)
  ∧ ∀ (v : Word) (s : State), s.serving = true →
    ∃ t, exec (.upportWrite v) s = .next t ∧ t = { s with time := t.time } ∧ t.time.cfg = v &&& 0x07E00000FFFFFFFF
      ∧ t.time.valid = false ∧ t.time.now = s.time.now
      ∧ (s.selfTimed = true → 18 ≤ field v.toNat 58 54 → t.time.holdover = s.time.holdover)

/-! ## The oscillator and the PLL -/

/-- R318: after step 2 of proofing, each 250 us window within 200 ppm of the second clock counts; the fourth in a row proofs the
oscillator, and one outside starts the count over. -/
def Claim.OscillatorProofs : Prop :=
  ∀ (w : ClockWindow) (s : State) (e : Int), s.ready = true → s.clk.oscRuns = true → s.clk.proofed = false → w.long = true →
    s.clk.trimSrc ≠ 3 → s.clk.discard = false → s.clk.firstDone = true → s.second w = some e →
    ∃ t, exec (.refclkWindowEnd w) s = .next t ∧ t.time.now = s.time.now
      ∧ (e.natAbs ≤ 800 → 4 ≤ s.clk.inBand + 1 → t.clk.proofed = true ∧ t.clk.oscOk = true)
      ∧ (e.natAbs ≤ 800 → s.clk.inBand + 1 < 4 → t.clk.proofed = false ∧ t.clk.inBand = s.clk.inBand + 1)
      ∧ (800 < e.natAbs → t.clk.proofed = false ∧ t.clk.inBand = 0)

/-- R320: a proofed oscillator whose error against the accepted second clock reaches 2,000 ppm in a 10 us window, or 1,000 ppm in a
250 us one, has failed: PROOFED, OSC_OK and PLL_LOCK clear, COAST and its event are set, CLK_FAIL is recorded; a self-timed
node's VALID clears without a step (R329). -/
def Claim.OscillatorFails : Prop :=
  ∀ (w : ClockWindow) (s : State) (e : Int), s.ready = true → s.clk.oscRuns = true → s.clk.proofed = true → s.second w = some e →
    (if w.long then 4000 else 8000) ≤ e.natAbs →
    ∃ t, exec (.refclkWindowEnd w) s = .next t ∧ t.clk.proofed = false ∧ t.clk.oscOk = false ∧ t.clk.pllLock = false
      ∧ t.clk.coast = true ∧ t.clk.coastEv = true ∧ t.time.now = s.time.now
      ∧ (s.selfTimed = true → t.time.valid = false)
      ∧ bitAt t.glb.fault.toNat 0 = true ∧ bitAt t.glb.irq.toNat 2 = true

/-- R317, R329: REFCLK without edges in a window is no longer accepted; the oscillator stays proofed, and a self-timed node is in
HOLDOVER with VALID kept. -/
def Claim.ReferenceLost : Prop :=
  ∀ (w : ClockWindow) (s : State), s.ready = true → s.clk.oscRuns = true → s.clk.proofed = true → s.clk.refOk = true → w.refEdges = false →
    s.windowFails w = false → s.clk.driftBand < 4 →
    ∃ t, exec (.refclkWindowEnd w) s = .next t ∧ t.clk.refOk = false ∧ t.clk.proofed = true
      ∧ (s.selfTimed = true → t.time.holdover = true ∧ t.time.valid = s.time.valid) ∧ t.time.now = s.time.now

/-- R320, R322: the oscillator has stopped. It counts as failed, and each island that ran on it is in reset, on its PLL branch. From
then on neither a window nor the end of coasting changes anything, and power-up goes no further (log 109): the unit coasts until its
reset. -/
def Claim.OscillatorStops : Prop :=
  (∀ (w : ClockWindow) (s : State), s.clk.oscRuns = false →
    exec (.refclkWindowEnd w) s = .next s ∧ exec .coastEnd s = .next s ∧ ∀ caps pin, exec (.powerUp caps pin) s = .next s)
  ∧ ∀ (s : State), s.clk.oscRuns = true →
    ∃ t, exec .oscEdgeTimeout s = .next t ∧ t.clk.oscRuns = false ∧ t.clk.proofed = false ∧ t.clk.oscOk = false
      ∧ t.clk.coast = true ∧ t.time.now = s.time.now
      ∧ ∀ i, i < 16 → s.hasIsland i = true →
          (selOf s.clk.sel i = 1 → selOf t.clk.sel i = 0 ∧ bitAt t.clk.islReset.toNat i = true)
          ∧ (selOf s.clk.sel i ≠ 1 → selOf t.clk.sel i = selOf s.clk.sel i)

/-- R319, R320, R318: coasting ends once an oscillator that runs is proofed, with the PLL in
lock unless it has stopped for good (R322); each activity bit takes one interval more; a new TRIM_SRC of an
oscillator that is not proofed starts its proofing over. -/
def Claim.ClockEvents : Prop :=
  (∀ (s : State), s.clk.coast = true → s.clk.proofed = true → s.clk.oscRuns = true →
    exec .coastEnd s = .next { s with clk := { s.clk with coast := false, pllLock := !s.clk.pllDown } })
  ∧ (∀ (a b c : Bool) (x y z : BitVec 4) (s : State), s.clk.hist = [x, y, z] →
    exec (.clockActivityMonitor a b c) s = .next { s with clk := { s.clk with
      hist := [(x <<< 1) ||| (if a then 1 else 0), (y <<< 1) ||| (if b then 1 else 0), (z <<< 1) ||| (if c then 1 else 0)] } })
  ∧ ∀ (v : Word) (s : State), s.serving = true → s.clk.proofed = false →
    BitVec.ofNat 2 (field v.toNat 3 2) ≠ s.clk.trimSrc →
    exec (.trimSrcWrite v) s = .next { s with clk := { s.clk with
      trimSrc := BitVec.ofNat 2 (field v.toNat 3 2), firstDone := false, inBand := 0, discard := true } }

/-! ## Islands -/

/-- R321 to R323: a write of CLK_ISLAND with no switch in progress. An island of the build other than CONTROL takes a SEL other
than 3; with its RESET bit it is in reset until its release; without it a new SEL begins a switch from the old source; its HUNG bit
clears where a one is written. While a switch is in progress the write is ignored. -/
def Claim.IslandWrite : Prop :=
  ∀ (v : Word) (s : State), s.serving = true →
    (s.clk.switching ≠ [] → exec (.islandSwitch v) s = .next s ∧ exec (.islandReset v) s = .next s)
    ∧ (s.clk.switching = [] → ∃ t, exec (.islandSwitch v) s = .next t ∧ exec (.islandReset v) s = .next t
      ∧ (∀ i, i < 16 → bitAt t.clk.hung.toNat i = (bitAt s.clk.hung.toNat i && !bitAt v.toNat i))
      ∧ ∀ i, i < 16 → i ≠ 13 → s.hasIsland i = true →
          selOf t.clk.sel i = (if field v.toNat (33 + 2 * i) (32 + 2 * i) = 3 then selOf s.clk.sel i
            else field v.toNat (33 + 2 * i) (32 + 2 * i))
          ∧ (bitAt v.toNat (16 + i) = true → bitAt t.clk.islReset.toNat i = true ∧ (i, none) ∈ t.clk.switching)
          ∧ (bitAt v.toNat (16 + i) = false → bitAt t.clk.islReset.toNat i = bitAt s.clk.islReset.toNat i
              ∧ (selOf t.clk.sel i ≠ selOf s.clk.sel i → (i, some (selOf s.clk.sel i)) ∈ t.clk.switching)))

/-- R321, R322: a switch from a source to another ends if both run, and waits otherwise; one that does not end within its watchdog's time
leaves HUNG and the island in reset; the end of a reset clears the island's bit if its source runs, and changes nothing otherwise (log
109). -/
def Claim.IslandSwitchEnds : Prop :=
  ∀ (i : Fin 16) (s : State),
    (∀ old, s.switchFrom i = some old →
      (s.sourceRuns old = true → s.sourceRuns (selOf s.clk.sel i) = true →
        exec (.islandSwitchDone i) s = .next { s with clk := { s.clk with
          switching := s.clk.switching.filter (fun e => decide (e.1 ≠ i.val)) } })
      ∧ (s.sourceRuns old = false ∨ s.sourceRuns (selOf s.clk.sel i) = false → exec (.islandSwitchDone i) s = .next s)
      ∧ ∃ t, exec (.switchWatchdog i) s = .next t ∧ bitAt t.clk.hung.toNat i = true ∧ bitAt t.clk.islReset.toNat i = true
        ∧ t.clk.switching = s.clk.switching.filter (fun e => decide (e.1 ≠ i.val)) ∧ bitAt t.glb.fault.toNat 0 = true)
    ∧ (s.sourceRuns (selOf s.clk.sel i) = false → exec (.islandResetRelease i) s = .next s)
    ∧ (bitAt s.clk.islReset.toNat i = true → s.sourceRuns (selOf s.clk.sel i) = true →
      ∃ t, exec (.islandResetRelease i) s = .next t ∧ bitAt t.clk.islReset.toNat i = false
        ∧ t.clk.switching = s.clk.switching.filter (fun e => decide (e.1 ≠ i.val)) ∧ t.clk.sel = s.clk.sel
        ∧ (i ≠ 12 → i ≠ 13 → i ≠ 14 → t = s.setClk t.clk))

/-- R322: with the oscillator running, a PLL that stops puts every island of the build into reset on OSC, and every context that is
not in a flip or under a host abort, and not STOPPED with RESUMABLE 0, is STOPPED with CAUSE FAULT. It stays stopped, whatever is written
to PLL_STOP. -/
def Claim.PllStops : Prop :=
  (∀ (v : Word) (s : State), s.serving = true → s.clk.pllDown = true →
    exec .pllStop s = .next s ∧ s.sourceRuns 0 = false
      ∧ ∃ t, exec (.registerWrite 0x100000 false v) s = .next t ∧ t.clk.pllDown = true)
  ∧ ∀ (s : State), s.ready = true → s.clk.oscRuns = true → s.clk.pllDown = false →
    ∃ t, exec .pllStop s = .next t ∧ t.clk.pllStop = true ∧ t.clk.pllDown = true ∧ t.clk.pllLock = false
      ∧ (∀ i, i < 16 → s.hasIsland i = true → selOf t.clk.sel i = 1 ∧ bitAt t.clk.islReset.toNat i = true)
      ∧ ∀ c, c < 64 → ((s.ctx c).run.st ≠ .stopped ∨ (s.ctx c).run.resumable = true) → (s.ctx c).gen.flip = .none →
          (s.ctx c).gen.abortBit = false → (t.ctx c).run.st = .stopped ∧ (t.ctx c).run.cause = 3 ∧ (t.ctx c).run.fcode = 0x12

/-! ## Operating points and power -/

/-- R325, R326: a request for operating points is stored; with no transition of LINK in progress and no limiter, LINK goes to the
greater of the request and its floor; the request itself changes no CUR, and the end of a transition leaves CUR at its target. -/
def Claim.OperatingPoints : Prop :=
  (∀ (v : Word) (s : State), s.serving = true →
    ∃ t, exec (.dvfsRequest v) s = .next t ∧ t = { s with clk := t.clk }
      ∧ t.clk.linkReq.toNat = field v.toNat 3 2 ∧ t.clk.stwReq.toNat = field v.toNat 1 0 ∧ t.clk.linkCur = s.clk.linkCur
      ∧ t.clk.stwCur = s.clk.stwCur
      ∧ (s.clk.linkTo = none → s.clk.throttled = false →
          t.clk.linkTo = if max (field v.toNat 3 2) s.linkFloor = s.clk.linkCur.toNat then none
            else some (BitVec.ofNat 2 (max (field v.toNat 3 2) s.linkFloor))))
  ∧ ∀ (s : State) (x : BitVec 2),
    (s.clk.linkTo = some x → ∃ t, exec (.dvfsDone false) s = .next t ∧ t.clk.linkCur = x)
    ∧ (s.clk.stwTo = some x → ∃ t, exec (.dvfsDone true) s = .next t ∧ t.clk.stwCur = x ∧ t.clk.linkCur = s.clk.linkCur
        ∧ t = { s with clk := t.clk })

/-- R333: a sample above a supply's maximum starts the limiter, and lowers the duty by one step while it acts; samples all below
95 % raise the duty by one step, and end the limiter at full duty. -/
def Claim.PowerLimiter : Prop :=
  ∀ (a b c : Nat) (s : State), s.ready = true →
    ∃ t, exec (.powerSample a b c) s = .next t ∧ t = { s with clk := t.clk }
      ∧ (1000 < a ∨ 1000 < b ∨ 1000 < c →
          t.clk.throttled = true
            ∧ t.clk.duty = if s.clk.throttled = false ∨ s.clk.duty = 0 then s.clk.duty else s.clk.duty - 1)
      ∧ (a < 950 → b < 950 → c < 950 → s.clk.throttled = true →
          (s.clk.duty = 0xF → t.clk.throttled = false)
          ∧ (s.clk.duty ≠ 0xF → t.clk.throttled = true ∧ t.clk.duty = s.clk.duty + 1))
      ∧ (950 ≤ a → a ≤ 1000 → b ≤ 1000 → c ≤ 1000 → t.clk.throttled = s.clk.throttled ∧ t.clk.duty = s.clk.duty)

/-- R334, R335: an idle slice is gated; PARK is refused while a context works or a queue is open, and otherwise begins, with no
cell left to a context; it ends once the spills are written, with every slice gated, and is left at once if a context is RUNNING by
then; a PARK request in PARK is answered by the same test; UNPARK leaves it. -/
def Claim.PowerStates : Prop :=
  (∀ (n : Fin 12) (s : State), n.val < s.nSlices → s.clk.autoIdle = true → s.sliceIdle n = true →
    exec (.sliceAutoGate n) s = .next { s with clk := { s.clk with gated := s.clk.gated ||| BitVec.ofNat 12 (2 ^ n.val) } })
  ∧ (∀ (v : Word) (s : State), s.serving = true → s.clk.pwState = 0 → bitAt v.toNat 0 = true →
    ∃ t, exec (.park v) s = .next t
      ∧ (s.parkOk = false → t.clk.pwState = 0 ∧ t.clk.pwResult = 2 ∧ t.cells = s.cells ∧ t.stks = s.stks)
      ∧ (s.parkOk = true → t.clk.pwState = 3 ∨ (t.clk.pwState = 0 ∧ t.clk.pwResult = 2))
      ∧ (s.parkOk = true → (∀ c, c < 64 → s.ownedCells c = []) → t.clk.pwState = 3 ∧ t.cells = s.cells ∧ t.stks = s.stks)
      ∧ (t.clk.pwState = 3 → ∀ c, c < 64 → ∀ g, g < s.nCells → (t.cell g).owner ≠ some c))
  ∧ (∀ (v : Word) (s : State), s.serving = true → s.clk.pwState = 2 → bitAt v.toNat 1 = true → bitAt v.toNat 0 = false →
    exec (.unpark v) s = .next { s with clk := { s.clk with autoIdle := bitAt v.toNat 3, unparkBit := true, pwState := 4 } })
  ∧ (∀ (v : Word) (s : State), s.serving = true → s.clk.pwState = 2 → bitAt v.toNat 0 = true → bitAt v.toNat 1 = false →
    ∃ t, exec (.park v) s = .next t ∧ t.clk.pwState = 2 ∧ t.clk.pwResult = (if s.parkOk = true then 1 else 2)
      ∧ t.cells = s.cells ∧ t.stks = s.stks ∧ t.ctxs = s.ctxs)
  ∧ (∀ (s : State), s.clk.pwState = 3 → (∀ c, c < 64 → s.outstanding (.switchOut c) = false) →
    ∃ t, exec .parkDone s = .next t ∧ t.clk.pwState = (if s.clk.unparkBit = true ∨ s.anyRunning = true then 4 else 2)
      ∧ t.clk.pwResult = 1
      ∧ (∀ n, n < s.nSlices → bitAt t.clk.gated.toNat n = true) ∧ t.stks = s.stks ∧ t.ctxs = s.ctxs)
  ∧ ∀ (s : State), s.clk.pwState = 4 →
    exec .parkExitDone s = .next { s with clk := { s.clk with pwState := 0, unparkBit := false, gated := 0 } }

/-! ## Power-up and reset -/

/-- R336, R337: power-up goes from step to step; at step 3 the capacities and the boot pin are sampled and the control port is served; a
stack whose controller presents no capacity is ABSENT (log 73), and every register holds its reset value, ports aside, which begin to
train. RESET_N for less than 100 ns does nothing; a longer pulse leaves every register at its reset
value and keeps the fuses and what the stacks hold. -/
def Claim.PowerUpAndReset : Prop :=
  (∀ (caps : List (BitVec 8)) (pin : Bool) (s : State),
    (3 ≤ s.pwr.step → exec (.powerUp caps pin) s = .next s)
    ∧ (s.clk.oscRuns = true → s.pwr.step < 2 → exec (.powerUp caps pin) s = .next { s with pwr := { s.pwr with step := s.pwr.step + 1 } })
    ∧ (s.clk.oscRuns = true → s.pwr.step = 2 → ∃ t, exec (.powerUp caps pin) s = .next t
        ∧ (s.tap.pinsHeld = false → t.ready = true) ∧ t.pwr.bootPin = pin
        ∧ (∀ k, k < s.nSlices → t.pwr.caps.getD k 0 = caps.getD k 0
            ∧ t.stackState k = if caps.getD k 0 = 0 then 0 else 1)
        ∧ (let r := State.resetOf s.build s.fuses s.stks s.pending s.free
           t = { r with
            pwr := t.pwr, xb := { r.xb with stackState := t.xb.stackState }, fab := { r.fab with ports := t.fab.ports }
            cfg := { r.cfg with bootBusy := pin, request := t.cfg.request }, tap := s.tap })))
  ∧ ∀ (ns : Nat) (s : State),
    (ns < 100 → exec (.unitReset ns) s = .next s)
    ∧ (100 ≤ ns → ∃ t, exec (.unitReset ns) s = .next t ∧ t.stks = s.stks ∧ t.tap.ir = s.tap.ir ∧ t.tap.pinsHeld = false
        ∧ (∀ c, t.ctx c = Ctx.reset) ∧ (∀ g, t.cell g = Cell.reset) ∧ (∀ p, t.port p = Port.reset)
        ∧ t.pwr.step = 0 ∧ t.time.now = 0 ∧ t.time.valid = false ∧ t.cfg.regions = [] ∧ t.fab.txns = [])

/-- R357: the watchdog, unless its time is 0, resets the STEWARD island, whose firmware is loaded anew. -/
def Claim.WatchdogResets : Prop :=
  ∀ (s : State),
    (field s.cfg.timing.toNat 15 0 = 0 → exec .watchdogExpire s = .next s)
    ∧ (field s.cfg.timing.toNat 15 0 ≠ 0 → ∃ t, exec .watchdogExpire s = .next t ∧ bitAt t.clk.islReset.toNat 15 = true
        ∧ t.cfg.swap = some 15 ∧ t.cfg.wdogResets = s.cfg.wdogResets + 1 ∧ (s.cfg.wdogResets < 2 → t.cfg.romHold = s.cfg.romHold)
        ∧ t.ctxs = s.ctxs ∧ t.cells = s.cells ∧ t.stks = s.stks)

/-! ## Stack ports -/

/-- R262, R264: an error-free response to an instruction's request takes that request out of its port, with what a read brings, and a
response to a held tag frees the tag; then what waits goes as far as it may. Neither changes anything outside the stack ports. A
response to a tag that is neither outstanding nor held is only counted, and while the stack is RETIRED every response is discarded.
While an earlier request of the same master and ID is outstanding, Crossway holds the response (R272), and while CROSS is in reset it
takes none (R406); what waits at the ports then goes as far as it may. This is said of a unit that holds no other response, and in which
no request of another node and no Ledger update waits. -/
def Claim.ResponseRemoves : Prop :=
  ∀ (k : Fin 12) (tag : BitVec 10) (write : Bool) (s : State), s.xb.held = [] → s.fab.resolving = [] → s.fab.heldWrites = [] →
    s.fab.ledgerQ = [] →
    let resp := fun (e : Bool) => exec (if write then .stackWriteResponse k tag e else .stackReadResponse k tag e) s
    (s.stackState k = 3 ∨ s.crossRuns = false → ∀ e, resp e = .next s.settlePorts)
    ∧ (s.stackState k ≠ 3 → s.crossRuns = true →
      (∀ r, (s.stackPort k).find write tag.toNat = some r → ∀ c, r.by_ = .instr c →
          let u := s.setStackPort k { s.stackPort k with
            reqs := (s.stackPort k).reqs.filter (fun q => decide (¬ (q.write = write ∧ q.tag = some tag.toNat)))
            rdata := if write = true then (s.stackPort k).rdata else r.data }
          ∃ t, resp false = .next t
            ∧ (u.responseHeld r = false →
                t = { s with xb := { s.xb with ports := t.xb.ports, turn := t.xb.turn } } ∧ t = u.settlePorts.settlePorts)
            ∧ (u.responseHeld r = true → t.xb.held = [(k.val, r, false)] ∧ t.stks = s.stks ∧ t.ctxs = s.ctxs ∧ t.cells = s.cells))
      ∧ ((s.stackPort k).find write tag.toNat = none →
          (∃ r ∈ (s.stackPort k).late, r.write = write ∧ r.tag = some tag.toNat) → ∀ e,
          ∃ t, resp e = .next t ∧ t = { s with xb := { s.xb with ports := t.xb.ports, turn := t.xb.turn } }
            ∧ t = (s.setStackPort k { s.stackPort k with
                late := (s.stackPort k).late.filter (fun q => decide (¬ (q.write = write ∧ q.tag = some tag.toNat))) }).settlePorts.settlePorts)
      ∧ ((s.stackPort k).find write tag.toNat = none →
          (∀ r ∈ (s.stackPort k).late, r.write = write → r.tag ≠ some tag.toNat) → ∀ e,
          resp e = .next (s.countErr k 16).settlePorts))

/-- R264: an ERR response, or no response in time, to a request of the instruction at a context's HEAD stops the context with CAUSE
FAULT and code TIMEOUT; the timed-out request holds its tag, and no outstanding request carries it. (Of a unit in which no request of
another node and no Ledger update waits; no response that Crossway holds goes before this one.) -/
def Claim.FailedRequestStops : Prop :=
  ∀ (k : Fin 12) (tag : BitVec 10) (write : Bool) (s : State) (r : Req) (c : Nat) (i : Cur),
    (s.stackPort k).find write tag.toNat = some r → r.by_ = .instr c → s.head c = some i → s.active c = true →
    (s.ctx c).gen.abortBit = false → s.xb.held = [] → s.fab.resolving = [] → s.fab.heldWrites = [] → s.fab.ledgerQ = [] →
    (s.stackState k ≠ 3 → s.crossRuns = true → s.responseHeld r = false →
      ∃ t, exec (if write then .stackWriteResponse k tag true else .stackReadResponse k tag true) s = .next t
        ∧ (t.ctx c).run.st = .stopped ∧ (t.ctx c).run.cause = 3 ∧ (t.ctx c).run.fcode = 0x0A
        ∧ (t.ctx c).run.head = (s.ctx c).run.head)
    ∧ ∃ t, exec (.stackRequestTimeout k write tag) s = .next t
      ∧ (t.ctx c).run.st = .stopped ∧ (t.ctx c).run.cause = 3 ∧ (t.ctx c).run.fcode = 0x0A
      ∧ (t.ctx c).run.head = (s.ctx c).run.head
      ∧ r ∈ (t.stackPort k).late
      ∧ ∀ q ∈ (t.stackPort k).reqs, q.write = write → q.tag ≠ some tag.toNat

/-- R264, R402: an ERR response, or no response in time, to a read of the descriptor fetcher or the owner-table walker for the
instruction at HEAD, which has not begun, stops the context with CAUSE FAULT and code TIMEOUT; the record names the stage and step of
the read (the model's numbers, log 17), no slot, and the stack port; no byte moves. An ERR response to the walker's read of one Ledger
copy stops nothing: the other copy is used (R260; log 20). An instruction whose reads are outstanding does not begin (log 17). -/
def Claim.FailedFetchStops : Prop :=
  ∀ (k : Fin 12) (tag : BitVec 10) (s : State) (r : Req) (c : Nat) (i : Cur) (stage step : Nat),
    (s.stackPort k).find false tag.toNat = some r → r.by_ = .fetch c i.n stage step → s.head c = some i → s.active c = true →
    i.phase = .ready → i.halted = false → i.fault = none → (s.ctx c).run.head = i.n → s.NothingDue c →
    (s.ctx c).gen.abortBit = false → stage < 8 → step < 16 → s.xb.held = [] → s.fab.resolving = [] → s.fab.heldWrites = [] →
    s.fab.ledgerQ = [] → s.responseHeld r = false →
    (∀ op, s.readyHead c op .ready = none)
    ∧ (s.stackState k ≠ 3 → s.crossRuns = true → step = 7 →
      ∃ t, exec (.stackReadResponse k tag true) s = .next t ∧ t.ctxs = s.ctxs ∧ t.stks = s.stks ∧ t.cells = s.cells
        ∧ ∀ j, j < r.len → (k.val, r.addr + 64 * j) ∈ t.fab.ledgerBad)
    ∧ (s.stackState k ≠ 3 → s.crossRuns = true → step ≠ 7 →
      ∃ t, exec (.stackReadResponse k tag true) s = .next t
        ∧ (t.ctx c).run.st = .stopped ∧ (t.ctx c).run.cause = 3 ∧ (t.ctx c).run.fcode = 0x0A ∧ (t.ctx c).run.resumable = false
        ∧ (t.ctx c).run.head = (s.ctx c).run.head
        ∧ field (t.ctx c).flt.f0.toNat 55 53 = stage ∧ field (t.ctx c).flt.f0.toNat 52 49 = step
        ∧ bitAt (t.ctx c).flt.f0.toNat 48 = false
        ∧ bitAt (t.ctx c).flt.f3.toNat 52 = true ∧ field (t.ctx c).flt.f3.toNat 51 47 = k ∧ bitAt (t.ctx c).flt.f3.toNat 46 = true
        ∧ t.stks = s.stks ∧ t.cells = s.cells)
    ∧ ∃ t, exec (.stackRequestTimeout k false tag) s = .next t
        ∧ (t.ctx c).run.st = .stopped ∧ (t.ctx c).run.cause = 3 ∧ (t.ctx c).run.fcode = 0x0A
        ∧ bitAt (t.ctx c).flt.f3.toNat 46 = false ∧ t.stks = s.stks ∧ t.cells = s.cells

/-- R264, R268, R406: a loss of STKs_CTRL_OK is seen, unless the test access port holds the pins (R416); a piece that has waited its age
at any of the 40 targets goes to priority 15; what a failed
background request left for RESP_TIMEOUT is tried again while CROSS runs, and nothing is left to try where nothing failed. -/
def Claim.PortEvents : Prop :=
  (∀ (k : Fin 12) (s : State), (s.tap.pinsHeld = false → exec (.stackCtrlLost k) s
    = .next { s with pwr := { s.pwr with ctrlOk := s.pwr.ctrlOk &&& ~~~(BitVec.ofNat 12 (2 ^ k.val)) } })
    ∧ (s.tap.pinsHeld = true → exec (.stackCtrlLost k) s = .next s))
  ∧ (∀ (k : Fin 40) (n : Nat) (r : Req) (s : State), (s.stackPort k).wait[n]? = some r →
    exec (.pieceAgeExpire k n) s = .next (s.setStackPort k { s.stackPort k with
      wait := (s.stackPort k).wait.set n { r with aged := true } })
    ∧ s.level k { r with aged := true } = 15)
  ∧ ∀ (c : Fin 64) (w : Fin 1024) (s : State), (s.ctx c).gen.tblRetry.contains w.val = false → (s.ctx c).gen.saveRetry = false →
    ((s.winRec c w).retry = false → exec (.respTimeoutRetry c w) s = .next s)
    ∧ (s.crossRuns = true → (s.winRec c w).retry = true → (s.winEff c w).resident = true →
        ∃ t, exec (.respTimeoutRetry c w) s = .next t ∧ t.winRec c w = { s.winRec c w with paused := false, retry := false }
          ∧ (∀ v, v ≠ w.val → t.winRec c v = s.winRec c v) ∧ t.stks = s.stks ∧ t.cells = s.cells)

/-! ## Stacks in service -/

/-- R275 to R277: a retirement is refused while one runs, for a stack that is not to be retired, where its plan lies in a RETIRED stack,
or for what its checks find; it names the entry (ENTRY 0 where the reason concerns none: log 125). Accepted, the stack is RETIRING, GO is 1, and the first window of the plan reads not RESIDENT. A plan that reaches past its stack's capacity names an
address that does not exist (R261). -/
def Claim.StackRetires : Prop :=
  ∀ (v : Word) (s : State), s.serving = true →
    (s.xb.go = true → exec (.stackRetire v) s = .next { s with xb := { s.xb with result := 2, entry := 0 } })
    ∧ (s.xb.go = false →
      let s1 := s.setCmd v
      let k := s1.cmdStack
      (s1.planAbsent = true → s1.retirable k = true →
          exec (.stackRetire v) s = .fault (.stackAddressAbsent s1.planStack s1.planAddr))
      ∧ (s1.retirable k = false ∨ (s1.planAbsent = false ∧ s1.stackState s1.planStack = 3) →
          ∃ t, exec (.stackRetire v) s = .next t ∧ t.xb.go = false ∧ t.xb.result = 2 ∧ t.xb.entry = 0
            ∧ (∀ m, t.stackState m = s.stackState m) ∧ t.stks = s.stks)
      ∧ (s1.planAbsent = false → s1.retirable k = true → s1.stackState s1.planStack ≠ 3 →
        (∀ j, s1.retireRefused k s1.readPlan = some j →
          ∃ t, exec (.stackRetire v) s = .next t ∧ t.xb.go = false ∧ t.xb.result = 2 ∧ t.xb.entry = BitVec.ofNat 16 j
            ∧ (∀ m, t.stackState m = s.stackState m) ∧ t.stks = s.stks)
        ∧ (s1.retireRefused k s1.readPlan = none →
          ∃ t, exec (.stackRetire v) s = .next t ∧ t.xb.go = true ∧ t.xb.result = 0 ∧ t.xb.done = 0 ∧ t.stackState k = 2
            ∧ (∀ m, m ≠ k → t.stackState m = s.stackState m)
            ∧ ∀ p, s1.readPlan.head? = some p → (t.winTable p.ctx p.window).resident = false)))

/-- R48, R273, R277: an entry of the plan is done only once its copies are, and the accesses through the discarded copy of its window's
entry; the last also only once no locked sequence is open on the stack. DONE counts it, and after the last the stack is RETIRED, GO is 0
and RESULT is DONE. -/
def Claim.MigrationEnds : Prop :=
  ∀ (s : State) (m : Migration) (p : PlanEntry), s.xb.mig = some m → m.plan[m.entry]? = some p →
    let locked := ∃ l ∈ s.xb.locks, l.target = m.stack
    (s.outstanding .migration = true ∨ s.migQuiet m p = false ∨ (m.plan.length ≤ m.entry + 1 ∧ locked) →
      exec .migrationCopyDone s = .next s)
    ∧ (s.outstanding .migration = false → s.migQuiet m p = true → (m.entry + 1 < m.plan.length ∨ ¬ locked) →
      ∃ t, exec .migrationCopyDone s = .next t ∧ t.xb.done = s.xb.done + 1
        ∧ (m.entry + 1 < m.plan.length → (∃ n, t.xb.mig = some { m with entry := m.entry + 1, since := n }) ∧ ∀ k, t.stackState k = s.stackState k)
        ∧ (m.plan.length ≤ m.entry + 1 → t.xb.mig = none ∧ t.xb.go = false ∧ t.xb.result = 1 ∧ t.stackState m.stack = 3
            ∧ ∀ k, k ≠ m.stack → t.stackState k = s.stackState k))

/-- R280: a RETIRED stack whose controller is alive comes back: ONLINE at once where no generation is open, otherwise JOINING
until the generations that were open have ended. Any other stack is refused. -/
def Claim.StackReturns : Prop :=
  (∀ (v : Word) (s : State), s.serving = true → s.xb.go = false →
    let k := (s.setCmd v).cmdStack
    ∃ t, exec (.stackReturn v) s = .next t ∧ t.xb.go = false ∧ (∀ m, m ≠ k → t.stackState m = s.stackState m) ∧ t.stks = s.stks
      ∧ (s.stackState k ≠ 3 ∨ s.stackDead k = true → t.xb.result = 2 ∧ t.stackState k = s.stackState k)
      ∧ (s.stackState k = 3 → s.stackDead k = false → t.xb.result = 1
          ∧ ((∃ c, c < 64 ∧ (s.ctx c).gen.isOpen = true) → t.stackState k = 4)
          ∧ ((∀ c, c < 64 → (s.ctx c).gen.isOpen = false) → (∀ e ∈ s.xb.joinWait, e.1 ≠ k) → t.stackState k = 1)))
  ∧ ∀ (k : Fin 12) (s : State), s.stackState k = 4 →
    ((∃ e ∈ s.xb.joinWait, e.1 = k.val) → exec (.stackJoinOnline k) s = .next s)
    ∧ ((∀ e ∈ s.xb.joinWait, e.1 ≠ k.val) → ∃ t, exec (.stackJoinOnline k) s = .next t ∧ t.stackState k = 1
        ∧ ∀ m, m ≠ k.val → t.stackState m = s.stackState m)

/-! ## Configuration images -/

/-- R342, R344: GO with the loader IDLE and no boot in progress starts a load: STATE is LOADING, nothing received yet; otherwise the
load is rejected with CAUSE 13 (for each of these cases: log 83) and what is under way stays. -/
def Claim.ImageLoadStarts : Prop :=
  ∀ (v : Word) (s : State), s.serving = true → s.cfg.go = false → s.cfg.activate = false → bitAt v.toNat 0 = true →
    bitAt v.toNat 2 = false → bitAt v.toNat 3 = false →
    ∃ t, exec (.imageLoad v) s = .next t ∧ t.stks = s.stks ∧ t.cells = s.cells ∧ t.cfg.regions = s.cfg.regions
      ∧ (s.cfg.st = 0 → s.cfg.bootBusy = false →
          t.cfg.st = 1 ∧ t.cfg.go = true ∧ t.cfg.result = 0 ∧ t.cfg.img = ⟨[], none, [], 0⟩)
      ∧ (s.cfg.st ≠ 0 ∨ s.cfg.bootBusy = true →
          t.cfg.st = s.cfg.st ∧ t.cfg.result = 3 ∧ t.cfg.cause = 13 ∧ t.cfg.img = s.cfg.img)

/-- R343, R412: while LOADING from the configuration port, bytes short of a header are kept; a header that fails a check rejects
the image with its CAUSE, and one that passes is held, with the keys revoked at the time (R392). While not LOADING data changes nothing,
nor does data at the configuration port while CONTROL is in reset (R404) or the test access port holds the pins (R416).
The request that stands for the bytes to come is the model's choice (log 131). -/
def Claim.ImageData : Prop :=
  ∀ (data : List Byte) (s : State),
    (s.cfg.st ≠ 1 → ∀ e, exec (.imageDataReceive data e) s = .next s)
    ∧ (s.imgSrcStack = false → s.cfgpTakes = false → ∀ e, exec (.imageDataReceive data e) s = .next s)
    ∧ (s.cfg.st = 1 → s.imgSrcStack = false → s.cfgpTakes = true → s.cfg.img.hdr = none → s.cfg.img.seen = [] → s.cfg.img.bytes.length < 256 →
      (s.cfg.img.bytes.length + data.length < 256 →
        exec (.imageDataReceive data false) s
          = .next { s with cfg := { s.cfg with
              img := { s.cfg.img with bytes := s.cfg.img.bytes ++ data }, request := some (s.imgBase, 256) } })
      ∧ (s.cfg.img.bytes.length + data.length = 256 →
        ∃ t, exec (.imageDataReceive data false) s = .next t
          ∧ (∀ cause, s.hdrCheck false (s.cfg.img.bytes ++ data) = some cause →
              t.cfg.st = 0 ∧ t.cfg.go = false ∧ t.cfg.result = 3 ∧ t.cfg.cause = BitVec.ofNat 4 cause
                ∧ t.cfg.img = ⟨[], none, [], 0⟩ ∧ t.cfg.regions = s.cfg.regions)
          ∧ (s.hdrCheck false (s.cfg.img.bytes ++ data) = none →
              t.cfg.st = 1 ∧ t.cfg.img.hdr = some (parseHdr (s.cfg.img.bytes ++ data)) ∧ t.cfg.img.seen = []
                ∧ t.cfg.img.revoke = s.cfg.revoke ∧ t.cfg.regions = s.cfg.regions)))

/-- R261, R342: image data in stack memory beyond the capacity of its stack lies at no address. -/
def Claim.ImageAddressAbsent : Prop :=
  ∀ (data : List Byte) (e : Bool) (s : State), s.cfg.st = 1 → s.imgSrcStack = true →
    s.capBytes s.imgStack < s.imgAddr + min data.length s.imgNeed →
    exec (.imageDataReceive data e) s = .fault (.stackAddressAbsent s.imgStack s.imgAddr)

/-- R343, R344: a complete image is STAGED where digest and signature hold and is rejected with CAUSE 5 or 4 where one fails; an
image whose data stops coming is rejected with CAUSE 7; DISCARD drops a staged one. No region changes. -/
def Claim.ImageChecked : Prop :=
  (∀ (s : State) (h : ImgHdr), s.cfg.img.hdr = some h → s.cfg.st = 1 → h.length ≤ s.cfg.img.bytes.length →
    ∃ t, exec .signatureCheckDone s = .next t
      ∧ (digestOk s.cfg.img.bytes = false → t.cfg.st = 0 ∧ t.cfg.result = 3 ∧ t.cfg.cause = 5 ∧ t.cfg.img = ⟨[], none, [], 0⟩)
      ∧ (∀ k, s.imageKey s.cfg.img.revoke h = some k → digestOk s.cfg.img.bytes = true → signatureOk k s.cfg.img.bytes = false →
          t.cfg.st = 0 ∧ t.cfg.result = 3 ∧ t.cfg.cause = 4 ∧ t.cfg.img = ⟨[], none, [], 0⟩)
      ∧ (∀ k, s.imageKey s.cfg.img.revoke h = some k → digestOk s.cfg.img.bytes = true → signatureOk k s.cfg.img.bytes = true →
          bitAt s.cfg.load.toNat 5 = false → isFirmware s.imgRegion = false →
          t.cfg.st = 2 ∧ t.cfg.result = 1 ∧ t.cfg.img = s.cfg.img ∧ t.stks = s.stks)
      ∧ t.cfg.go = false ∧ t.cfg.regions = s.cfg.regions)
  ∧ (∀ (s : State), s.cfg.st = 1 → 0 < s.imgNeed →
    ∃ t, exec .portTimeoutExpire s = .next t ∧ t.cfg.st = 0 ∧ t.cfg.result = 3 ∧ t.cfg.cause = 7 ∧ t.cfg.img = ⟨[], none, [], 0⟩
      ∧ t.cfg.regions = s.cfg.regions)
  ∧ ∀ (v : Word) (s : State), s.serving = true → s.cfg.go = false → s.cfg.activate = false → s.cfg.st = 2 →
    bitAt v.toNat 0 = false → bitAt v.toNat 2 = false → bitAt v.toNat 3 = true →
    ∃ t, exec (.discard v) s = .next t ∧ t.cfg.st = 0 ∧ t.cfg.result = 5 ∧ t.cfg.img = ⟨[], none, [], 0⟩
      ∧ t.cfg.regions = s.cfg.regions ∧ t.cells = s.cells

/-- R346, R348: ACTIVATE of a staged slice image begins the drain of its slice, whose channels are held back, unless a running
Carousel uses a Lattice slot the image lacks (CAUSE 12, still STAGED); of a fabric image it pauses every port that is UP and has a lane. -/
def Claim.ActivationBegins : Prop :=
  ∀ (v : Word) (s : State), s.serving = true → s.cfg.go = false → s.cfg.activate = false → s.cfg.st = 2 →
    bitAt v.toNat 0 = false → bitAt v.toNat 2 = true → bitAt v.toNat 3 = false →
    ∃ t, exec (.activate v) s = .next t ∧ t.cfg.regions = s.cfg.regions ∧ t.stks = s.stks
      ∧ (s.imgRegion < 12 →
          (s.carouselUses s.imgRegion (Config.latticeSlots (imageFrames s.cfg.img.bytes)).toNat = true →
            t.cfg.st = 2 ∧ t.cfg.result = 4 ∧ t.cfg.cause = 12)
          ∧ (s.carouselUses s.imgRegion (Config.latticeSlots (imageFrames s.cfg.img.bytes)).toNat = false →
            t.cfg.st = 3 ∧ t.cfg.activate = true ∧ (t.slice s.imgRegion).held = true
              ∧ ∀ n, n ≠ s.imgRegion → t.slice n = s.slice n))
      ∧ (s.imgRegion = 0x10 → t.cfg.st = 4 ∧ t.cells = s.cells ∧ ∀ p, p < s.nPorts → (s.port p).isUp = true →
          (s.port p).laneMap ≠ 0 → (t.port p).paused = true)

/-- R346, R347: a drain that has ended lets the activation go on; one that runs out of time leaves the image STAGED and the slice
released, or, where its load says so, purges. -/
def Claim.DrainEnds : Prop :=
  ∀ (s : State) (a : Act), s.cfg.act = some a → s.cfg.st = 3 →
    (s.drained a = true → exec .drainComplete s = .next { s with cfg := { s.cfg with st := 4 } })
    ∧ (s.drained a = false → exec .drainComplete s = .next s)
    ∧ (a.purge = false → a.onExpire = false → a.service = false → a.region < 12 →
        ∃ t, exec .drainTimeout s = .next t ∧ t.cfg.st = 2 ∧ t.cfg.result = 4 ∧ t.cfg.cause = 0 ∧ t.cfg.act = none
          ∧ (t.slice a.region).held = false ∧ t.cfg.regions = s.cfg.regions ∧ t.cfg.img = s.cfg.img)
    ∧ (a.purge = false → a.onExpire = true →
        ∃ t, exec .drainTimeout s = .next t ∧ t.cfg.st = 3 ∧ t.cfg.act = some { a with purge := true } ∧ t.cfg.regions = s.cfg.regions)

/-- R346 step 5, R350: an activation that completes leaves the image's generation and frames active, SOURCE 3, the other retain
slot in use, no upset, and the loader IDLE with RESULT ACTIVATED; a slice's epoch is one later and its channels are released. -/
def Claim.ActivationCompletes : Prop :=
  ∀ (s : State) (a : Act) (h : ImgHdr) (k : Nat), s.cfg.act = some a → s.cfg.st = 4 → a.service = false →
    isFirmware a.region = false → s.cfg.img.hdr = some h → regionIndex a.region = some k →
    ∃ t, exec .activationComplete s = .next t
      ∧ t.region k = { s.region k with
          gen := h.gen, frames := imageFrames s.cfg.img.bytes, source := 3, broken := false, upset := [], mending := []
          slot := !(s.region k).slot, epoch := if k < 12 then (s.region k).epoch + 1 else (s.region k).epoch }
      ∧ (∀ j, j ≠ k → t.region j = s.region j)
      ∧ t.cfg.st = 0 ∧ t.cfg.result = 2 ∧ t.cfg.act = none ∧ t.cfg.img = ⟨[], none, [], 0⟩ ∧ t.stks = s.stks
      ∧ (k < 12 → (t.slice k).held = false)

/-- R352: an upset frame with an intact retained copy is rewritten, and its region counts one upset more; without one its region is
BROKEN. Both are logged, in the unit's own count too, unless a use of the frame has logged it (R365). A frame that is not upset is left
alone. -/
def Claim.ScrubMends : Prop :=
  ∀ (k : Fin 13) (n : Fin 512) (bytes : List Byte) (s : State),
    (n.val ∉ (s.region k).upset → exec (.scrubFrame k n bytes) s = .next s)
    ∧ (n.val ∈ (s.region k).upset → s.hasRegion (regionCode k) = true → (s.region k).broken = false →
      (∀ a, s.cfg.act = some a → regionIndex a.region ≠ some k.val) →
      bitAt s.clk.islReset.toNat (if k.val < 12 then k.val else 14) = false →
      ∃ t, exec (.scrubFrame k n bytes) s = .next t
        ∧ (n.val ∉ (s.region k).mending → t.cfg.upValid = true ∧ t.cfg.upFrame = BitVec.ofNat 24 n.val
            ∧ t.cfg.upRegion = BitVec.ofNat 8 (regionCode k) ∧ t.cfg.upCount.toNat = min 0xFFFF (s.cfg.upCount.toNat + 1)
            ∧ t.cfg.upBad = !s.retainedOk k n bytes)
        ∧ (n.val ∈ (s.region k).mending → t.cfg.upCount = s.cfg.upCount ∧ t.cfg.upFrame = s.cfg.upFrame)
        ∧ (s.retainedOk k n bytes = true → (t.region k).broken = false ∧ n.val ∉ (t.region k).upset ∧ n.val ∉ (t.region k).mending
            ∧ (t.region k).upsets.toNat = min 0xFFFF ((s.region k).upsets.toNat + 1) ∧ t.cells = s.cells ∧ t.stks = s.stks)
        ∧ (s.retainedOk k n bytes = false → (t.region k).broken = true ∧ t.cfg.upBad = true
            ∧ (k.val = 12 → ∀ p, p < s.nPorts → (t.port p).isUp = false)
            ∧ (k.val < 12 → ∀ p, p < 64 → t.cellDown (64 * k.val + p) = true)))

/-- R349: a boot that was not asked for, or that is over, changes nothing, nor does data while CONTROL is in reset (R404); one that runs ends
with BUSY 0 and one of its three RESULTs. A primary bundle that stalls gives way to the golden one, and a golden one that stalls leaves every region as it was. -/
def Claim.BootEnds : Prop :=
  ∀ (a b : List Byte) (s : State), s.ready = true →
    (s.cfg.bootBusy = false ∨ s.cfgpTakes = false → exec (.bootBundleLoad a b) s = .next s)
    ∧ (s.cfg.bootBusy = true → s.cfgpTakes = true → ∃ t, exec (.bootBundleLoad a b) s = .next t ∧ t.cfg.bootBusy = false
        ∧ (s.cfg.bootAlt = false →
            t.cfg.bootResult = (if (s.tryBundle a 1).2 then 1 else if ((s.tryBundle a 1).1.tryBundle b 2).2 then 2 else 3))
        ∧ (s.cfg.bootAlt = true → t.cfg.bootResult = (if (s.tryBundle b 2).2 then 2 else 3)))
    ∧ (s.cfg.bootBusy = true → s.cfg.st ≠ 1 → ∃ t, exec .portTimeoutExpire s = .next t ∧ t.cfg.regions = s.cfg.regions
        ∧ bitAt t.glb.fault.toNat 0 = true
        ∧ (s.cfg.bootAlt = false → t.cfg.bootBusy = true ∧ t.cfg.bootAlt = true)
        ∧ (s.cfg.bootAlt = true → t.cfg.bootBusy = false ∧ t.cfg.bootResult = 3))

/-! ## Steward firmware -/

/-- R355, R392: once LOCK is set, neither the firmware slots nor the revoked keys change until reset, and the locks stay; before
that a write stores them. -/
def Claim.LocksHold : Prop :=
  (∀ (v : Word) (s : State), s.serving = true →
    exec (.keysLock v) s = .next { s with cfg := { s.cfg with
      revoke := if s.cfg.keysLock then s.cfg.revoke else v.setWidth 4, keysLock := s.cfg.keysLock || bitAt v.toNat 63 } })
  ∧ ∀ (v : Word) (s : State), s.serving = true → bitAt v.toNat 1 = false → bitAt v.toNat 2 = false → s.cfg.handoverAck = false →
    exec (.fwLock v) s = exec (.kick v) s
    ∧ (s.cfg.fwLock = true → exec (.fwLock v) s = .next s)
    ∧ (s.cfg.fwLock = false → exec (.fwLock v) s = .next { s with cfg := { s.cfg with
        fwValid := bitAt v.toNat 63, fwLock := bitAt v.toNat 62, fwStack := BitVec.ofNat 4 (field v.toNat 59 56)
        fwBase := BitVec.ofNat 48 (field v.toNat 55 8) } })

/-- R353, R355, R356: HANDOVER_ACK and the end of its time let a firmware activation go on to its reload; FW_RESTART asks for a reload of
both kinds; a reload ends with nothing in progress, every Steward of the kind starts at offset 0 of its own memory, and ROM firmware, with
no image in those memories, runs where no slot is VALID. -/
def Claim.FirmwareReloads : Prop :=
  (∀ (v : Word) (s : State) (a : Act), s.serving = true → s.cfg.fwLock = true → bitAt v.toNat 1 = false → bitAt v.toNat 2 = true →
    s.cfg.act = some a → isFirmware a.region = true → s.cfg.swap = none →
    exec (.handoverAck v) s = .next { s with cfg := { s.cfg with handoverAck := false, swap := regionIndex a.region } }
    ∧ (s.cfg.handoverAck = false →
        exec .handoverTimeout s = .next { s with cfg := { s.cfg with handoverAck := false, swap := regionIndex a.region } }))
  ∧ (∀ (v : Word) (s : State), s.serving = true → s.cfg.fwLock = true → bitAt v.toNat 1 = true → bitAt v.toNat 2 = false →
    s.cfg.handoverAck = false →
    exec (.fwRestart v) s
      = .next { s with cfg := { s.cfg with fwRestart := true, romHold := false, swap := some 15 } })
  ∧ ∀ (s : State) (k : Nat), s.cfg.swap = some k → k = 13 ∨ k = 14 →
    ∃ t, exec .stewardReloadDone s = .next t ∧ t.cfg.swap = none ∧ t.cfg.fwRestart = false
      ∧ (∀ j ∈ s.stewardsOf (regionCode k), (tabGet Steward.reset t.cfg.stws j).pc = 0)
      ∧ (s.cfg.fwValid = false ∨ s.cfg.romHold = true → (t.region k).gen = 0 ∧ (t.region k).source = 0 ∧ t.stks = s.stks
          ∧ ∀ j ∈ s.stewardsOf (regionCode k), (tabGet Steward.reset t.cfg.stws j).mem = [])
      ∧ (∀ a, s.cfg.act = some a → isFirmware a.region = true → regionIndex a.region = some k →
          t.cfg.act = none ∧ t.cfg.st = 0 ∧ t.cfg.result = 2)

/-! ## Service of a slice -/

/-- R369: while GO is set a write of SLC_SERVICE is ignored. FENCE of a position that nothing uses takes it DOWN and reports DONE;
of one in use it is refused; in other cells no more than a block of a queue it closes can be recorded (R217). SUBST needs a DOWN position, a READY spare, the loader IDLE and a region that is not broken: then the
slice drains; otherwise it is refused. A TEST of a READY or FENCED spare marks it under test; any other is refused. -/
def Claim.ServiceCommands : Prop :=
  ∀ (n : Fin 12) (v : Word) (s : State), s.serving = true → n.val < s.nSlices → bitAt v.toNat 0 = true →
    let p := field v.toNat 15 10
    let k := field v.toNat 9 8
    let op := field v.toNat 3 1
    ((s.slice n).svcGo = true → exec (.serviceFence n v) s = .next s ∧ exec (.subst n v) s = .next s
        ∧ exec (.cellReturn n v) s = .next s ∧ exec (.spareTest n v) s = .next s)
    ∧ ((s.slice n).svcGo = false →
      (op = 0 → ∃ t, exec (.serviceFence n v) s = .next t ∧ (t.slice n).svcGo = false
          ∧ (s.cellUsed (64 * n.val + p) = true → (t.slice n).svcResult = 2 ∧ t.cells = s.cells)
          ∧ (s.cellUsed (64 * n.val + p) = false → (t.slice n).svcResult = 1
              ∧ ((s.slice n).spareOf p = none → t.cellDown (64 * n.val + p) = true)
              ∧ ∀ g, g ≠ 64 * n.val + p → (s.cell g).SameBut (t.cell g)))
      ∧ (op = 1 → ∃ t, exec (.subst n v) s = .next t
          ∧ ((s.slice n).isDown p = true → (s.slice n).spareState k = 0 → s.cfg.st = 0 → (s.region n).broken = false →
              s.retainedWhole n = true →
              (t.slice n).svcGo = true ∧ (t.slice n).held = true ∧ t.cfg.st = 3 ∧ t.cfg.act.map (·.region) = some n.val)
          ∧ ((s.slice n).isDown p = false ∨ (s.slice n).spareState k ≠ 0 ∨ s.cfg.st ≠ 0 ∨ (s.region n).broken = true →
              (t.slice n).svcGo = false ∧ (t.slice n).svcResult = 2 ∧ t.cells = s.cells ∧ t.cfg = s.cfg))
      ∧ (op = 3 → (s.slice n).spares.length = 4 → ∃ t, exec (.spareTest n v) s = .next t ∧ t.cells = s.cells
          ∧ ((s.slice n).spareState k = 0 ∨ (s.slice n).spareState k = 2 → (t.slice n).svcGo = true ∧ (t.slice n).spareState k = 3)
          ∧ ((s.slice n).spareState k = 1 ∨ (s.slice n).spareState k = 3 → (t.slice n).svcGo = false ∧ (t.slice n).svcResult = 2)))

/-- R369, R370: RETURN waits for the self-test of the home cell; a spare's test ends READY or FENCED; a home cell that passes and
that no spare replaces is in service again, one that fails is fenced. GO clears with a RESULT. -/
def Claim.SelfTestEnds : Prop :=
  (∀ (n : Fin 12) (v : Word) (s : State), s.serving = true → n.val < s.nSlices → bitAt v.toNat 0 = true → field v.toNat 3 1 = 2 →
    (s.slice n).svcGo = false → s.cellDown (64 * n.val + field v.toNat 15 10) = true →
    ∃ t, exec (.cellReturn n v) s = .next t ∧ (t.slice n).svcGo = true ∧ (t.slice n).svcOp = 2 ∧ t.cells = s.cells)
  ∧ ∀ (n : Fin 12) (pass : Bool) (s : State), (s.slice n).svcGo = true → s.reimaging n = false →
    ((s.slice n).svcOp = 3 → (s.slice n).spares.length = 4 →
      ∃ t, exec (.selfTestDone n pass) s = .next t ∧ (t.slice n).svcGo = false ∧ (t.slice n).svcResult = (if pass then 1 else 3)
        ∧ (t.slice n).spareState (s.slice n).svcSpare.toNat = (if pass then 0 else 2) ∧ t.cells = s.cells)
    ∧ ((s.slice n).svcOp = 2 → (s.slice n).spareOf (s.slice n).svcCell.toNat = none →
      ∃ t, exec (.selfTestDone n pass) s = .next t ∧ (t.slice n).svcGo = false ∧ (t.slice n).svcResult = (if pass then 1 else 3)
        ∧ t.cellDown (64 * n.val + (s.slice n).svcCell.toNat) = !pass
        ∧ ∀ g, g ≠ 64 * n.val + (s.slice n).svcCell.toNat → (s.cell g).SameBut (t.cell g))

/-! ## The Taster and the message port -/

/-- R376, R377: a sample with the ring in place writes one record at its place in the ring and goes to the next; one that finds the
record before it not written yet is skipped and marked as dropped; with the ring out of place ENABLE clears and no byte is written. -/
def Claim.TasterSamples : Prop :=
  ∀ (s : State), s.ready = true →
    (s.tasterOn = false → exec .tasterSample s = .next s)
    ∧ (s.tasterOn = true → s.tasterRingOk = true → s.outstanding .taster = true →
      exec .tasterSample s = .next { s with glb := { s.glb with tDropped := true, tSkipped := true } })
    ∧ (s.tasterOn = true → s.tasterRingOk = true → s.outstanding .taster = false →
      ∃ t, exec .tasterSample s = .next t
        ∧ (t.stack s.tasterStack).read (s.tasterBase + s.glb.tNext.toNat * s.tasterSize) s.tasterRecord.length = s.tasterRecord
        ∧ (∀ k, k ≠ s.tasterStack → t.stack k = s.stack k)
        ∧ (∀ a, a < s.tasterBase + s.glb.tNext.toNat * s.tasterSize
              ∨ s.tasterBase + s.glb.tNext.toNat * s.tasterSize + s.tasterRecord.length ≤ a →
            (t.stack s.tasterStack).get a = (s.stack s.tasterStack).get a)
        ∧ t.glb.tSample = s.glb.tSample + 1 ∧ t.glb.tNext.toNat = (s.glb.tNext.toNat + 1) % s.tasterRecords % 2 ^ 16
        ∧ t.glb.tNoHistory = false)
    ∧ (s.tasterOn = true → s.tasterRingOk = false →
      ∃ t, exec .tasterSample s = .next t ∧ t.tasterOn = false ∧ t.stks = s.stks ∧ bitAt t.glb.fault.toNat 0 = true)

/-- R411: a message leaves from the front of the queue; where a vector is owed, its message takes the free place. While CONTROL is in reset
(R404), or the test port holds the pins (R416), none leaves. -/
def Claim.MessagesLeave : Prop :=
  (∀ (s : State), bitAt s.clk.islReset.toNat 13 = true ∨ s.tap.pinsHeld = true → exec .msiSend s = .next s)
  ∧ ∀ (s : State) (m : Word × BitVec 32) (rest : List (Word × BitVec 32)), s.msiIdle = false → s.glb.msiQ = m :: rest → rest.length < 256 →
    (s.glb.owed = [] → exec .msiSend s = .next { s with glb := { s.glb with msiQ := rest } })
    ∧ (∀ v more, s.glb.owed = v :: more → exec .msiSend s = .next { s with glb := { s.glb with
        owed := more
        msiQ := rest ++ [((s.glb.msiAddr >>> 2) <<< 2, BitVec.ofNat 32 (s.glb.msiData.toNat % 2 ^ 32 + v))] } })

/-! ## Register access -/

/-- R382: an access of another size or alignment sets BADACC and does nothing else, from step 2 of power-up on, while CONTROL runs (R404, R410). -/
def Claim.MisalignedWrite : Prop :=
  ∀ (a : BitVec 24) (size4 : Bool) (v : Word) (s : State), s.cpTakes = true → a.toNat % (if size4 then 4 else 8) ≠ 0 →
    exec (.registerWrite a size4 v) s = .next { s with glb := { s.glb with badAcc := true } }

/-- R381, R384 to R397: an 8 B write at a register's offset in its context page, slice page or port array acts as the row of that
register does; plain registers store what their fields hold. -/
def Claim.RegisterWrites : Prop :=
  ∀ (v : Word) (s : State), s.serving = true →
    let w := fun (a : Nat) => exec (.registerWrite (BitVec.ofNat 24 a) false v) s
    (∀ (c : Fin 64), let b := 0xC00000 + 0x10000 * c.val
      w b = exec (.doorbell c v) s ∧ w (b + 0x8) = exec (.rcpHeadWrite c v) s ∧ w (b + 0x30) = exec (.wintabWrite c v) s
        ∧ w (b + 0x38) = exec (.winSync c v) s ∧ w (b + 0x58) = exec (.semSignal c v) s ∧ w (b + 0x60) = exec (.ctxIrqWrite c v) s
        ∧ (∀ p : Fin 1024, w (b + 0x2000 + 8 * p.val) = exec (.semWrite c p v) s)
        ∧ ((s.ctx c).run.st = .stopped →
            w (b + 0x20) = .next (s.updCtx c (fun x => { x with cfg := { x.cfg with rcpBase := v &&& 0x03FFFFFFFFFFFFC0 } })))
        ∧ ((s.ctx c).run.st ≠ .stopped → w (b + 0x20) = .next s ∧ w (b + 0x28) = .next s ∧ w (b + 0x40) = .next s)
        ∧ w (b + 0x110) = .next (s.updCtx c (fun x => { x with cfg := { x.cfg with srSeed := v } }))
        ∧ w (b + 0x100) = .next (s.updCtx c (fun x => { x with cvtFlags := x.cvtFlags &&& ~~~(v.setWidth 5) })))
    ∧ (∀ (n : Fin 12), w (0x800020 + 0x40000 * n.val) = exec (.serviceFence n v) s)
    ∧ (∀ (p : Fin 18), w (0x400100 + 8 * p.val) = exec (.portEnableWrite p v) s)
    ∧ (bitAt v.toNat 0 = true → field v.toNat 2 1 = 0 → w 0x300018 = exec (.stackRetire v) s)
    ∧ (bitAt v.toNat 0 = true → field v.toNat 2 1 = 1 → w 0x300018 = exec (.stackReturn v) s)
    ∧ (bitAt v.toNat 0 = false → w 0x300018 = .next (s.setCmd v))
    ∧ w 0x90 = exec (.glbIrqWrite v) s ∧ w 0x88 = exec (.msiEnableWrite v) s ∧ w 0x100108 = exec (.timeSet v) s
    ∧ w 0x100140 = .next { s with beat := { s.beat with
        cfg := v &&& 0x800FFFFF000FFFFF
        held := s.beat.held && bitAt v.toNat 63
        notReady := if bitAt v.toNat 63 = true then s.beat.notReady else [] } }
    ∧ w 0x200010 = .next { s with cfg := { s.cfg with timing := v } }
    ∧ w 0x80 = .next { s with glb := { s.glb with msiAddr := v &&& 0xFFFFFFFFFFFFFFFC } }
    ∧ w 0x8 = .next { s with glb := { s.glb with badAcc := s.glb.badAcc && !bitAt v.toNat 1 } }

/-! ## Test access -/

/-- R416: each instruction of the test access port selects its code; EXTEST and CLAMP take the pins out of functional use, every
other keeps them where they are. EXTEST and SAMPLE capture the pins, whose levels are free; CLAMP and BYPASS select the bypass register,
which captures 0, and TEST_LOGIC_RESET selects IDCODE (both log 8). Nothing but the port changes, but for what IJTAG_ACCESS reaches. -/
def Claim.TestAccess : Prop :=
  ∀ (s : State),
    (∃ b, exec .extest s = .next { s with tap := { s.tap with ir := 0x00, pinsHeld := true, boundary := b }, free := s.free + 1 })
    ∧ (∃ b, exec .samplePreload s = .next { s with tap := { s.tap with ir := 0x01, preloaded := true, boundary := b }, free := s.free + 1 })
    ∧ exec .idcode s = .next { s with tap := { s.tap with ir := 0x02 } }
    ∧ exec .clamp s = .next { s with tap := { s.tap with ir := 0x08, pinsHeld := true, bypass := false } }
    ∧ (∃ t, exec .ijtagAccess s = .next t ∧ t.tap.ir = 0x10 ∧ t.tap.pinsHeld = s.tap.pinsHeld ∧ t.stks = s.stks)
    ∧ exec .bypass s = .next { s with tap := { s.tap with ir := 0x3F, bypass := false } }
    ∧ exec .testLogicReset s = .next { s with tap := { s.tap with ir := 0x02, preloaded := false } }

/-- R417: IJTAG_ACCESS selects the network, and one instrument behind it, or none, acts. A cell instrument of a cell that is neither fenced
nor in PARK reports busy and does nothing; of one that is, the memory self-test reports its result, in a cell that serves no position nothing
else changes on a pass, and a cell that fails is fenced (R370). The others show the fuses, the activity of each clock (R319), the last
codeword of a fabric lane as its receiver corrects it (log 112: the code is the family's), and what the boundary FIFOs hold (any number: log
91), and change nothing but the port. Which instrument the data reach, and how a test ends, is free (log 91). -/
def Claim.Instruments : Prop :=
  (∀ (s : State), ∃ item n, exec .ijtagAccess s = .next (State.instrument { s with tap := { s.tap with ir := 0x10 }, free := n } item))
  ∧ ∀ (s : State),
    let sees := fun (r : TestReading) => ({ s with tap := { s.tap with reading := some r } } : State)
    s.instrument .network = s
    ∧ (∀ (n : Fin 12) (k : Fin 68) (pass : Bool), n.val < s.nSlices →
      (s.cellIdle n k = false → s.instrument (.cellTest n k pass) = sees .busy)
      ∧ (s.cellIdle n k = true →
          let t := s.instrument (.cellTest n k pass)
          t.tap.reading = some (.cell pass)
          ∧ ((s.slice n).serves k = none → pass = true → t = sees (.cell true))
          ∧ (pass = false → k.val < 64 → (s.slice n).serves k = none → bitAt (t.slice n).fenced.toNat k = true)
          ∧ t.stks = s.stks))
    ∧ s.instrument .fuses = sees (.fuses s.fuses)
    ∧ s.instrument .clocks = sees (.clocks (decide (s.clk.hist.getD 0 0 = 0xF)) (decide (s.clk.hist.getD 1 0 = 0xF))
        (decide (s.clk.hist.getD 2 0 = 0xF)))
    ∧ (∀ (p : Fin 18) (l : Fin 8), s.instrument (.loopback p l)
        = sees (.loopback ((rsCorrect (tabGet LaneFec.empty (s.port p).fec l).word).map fecBlocks)))
    ∧ ∃ v, s.instrument .fifos = { sees (.fifos v) with free := s.free + 1 }

/-- R416: while EXTEST or CLAMP has the pins, the ports and links behind them are out of use: the control port takes no access, and tokens,
credits, frames of a fabric port, SYNC pulses and messages neither come nor go. -/
def Claim.HeldPins : Prop :=
  ∀ (s : State), s.tap.pinsHeld = true →
    s.serving = false
    ∧ (∀ (a : BitVec 24) (size4 : Bool) (v : Word), exec (.registerWrite a size4 v) s = .next s)
    ∧ (∀ (g : Fin 768) (t : Token), exec (.dataTokenReceive g t) s = .next s)
    ∧ (∀ (g : Fin 768) (t : CtlToken), exec (.controlTokenReceive g t) s = .next s)
    ∧ (∀ (g : Fin 768) (c n : BitVec 4) (ok : Bool), exec (.creditReturn g c n ok) s = .next s)
    ∧ (∀ (g : Fin 768), exec (.readyParityError g) s = .next s ∧ exec (.streamTokenSend g .edge) s = .next s)
    ∧ (∀ (p : Fin 18), exec (.timeFrameSend p) s = .next s ∧ exec (.probeTimer p) s = .next s)
    ∧ (∀ (n : Nat), exec (.syncInEdge n) s = .next s)
    ∧ exec .syncOutPulse s = .next s ∧ exec .msiSend s = .next s

/-! ## Invariants -/

/-- Every memory keeps its canonical form, whatever a step does. -/
def Obligations.StepKeepsMemories : Prop :=
  ∀ (s t : State), s.MemWf → step s = .next t → t.MemWf

/-- R262, R263: every stack port keeps its ordering rule, whatever a step does. -/
def Obligations.StepKeepsPortOrder : Prop :=
  ∀ (s t : State), s.PortsOrdered → step s = .next t → t.PortsOrdered

/-- R13, R182, R209, R275, R409: after reset every context is STOPPED, every queue CLOSED and every tile EMPTY, no cell has an owner,
every port is DOWN, nothing waits, and the invariants hold. -/
def Claim.ResetState : Prop :=
  State.reset.MemWf ∧ State.reset.PortsOrdered ∧ State.reset.pending = []
    ∧ (∀ c, (State.reset.ctx c).run.st = .stopped ∧ (State.reset.ctx c).run.head = 0 ∧ (State.reset.ctx c).run.tail = 0
        ∧ (State.reset.ctx c).gen.isOpen = false ∧ (State.reset.ctx c).irq = 3)
    ∧ (∀ g, (State.reset.cell g).owner = none ∧ (∀ q, (State.reset.queue g q).st = .closed)
        ∧ ∀ k, (State.reset.cell g).tile k = TileRec.empty)
    ∧ (∀ p, (State.reset.port p).isUp = false) ∧ State.reset.fab.txns = [] ∧ State.reset.time.valid = false
    ∧ State.reset.clk.proofed = false
/-! ## Fabric ports -/

/-- R288, R295, R395: a PROBE takes a port in TRAINING that has a lane UP, with its neighbour recorded and its lanes active; a PROBE of
another neighbour takes a port that is UP out of service, as an event. Other ports stay. -/
def Claim.ProbeTakesPortUp : Prop :=
  ∀ (p : Fin 18) (h : LinkCtl) (uid : Word) (port build : BitVec 8) (s : State),
    s.tap.pinsHeld = false →
    ((s.port p).st = 2 → (s.port p).laneMap ≠ 0 →
      ∃ t, exec (.probe p ⟨h, uid⟩ port build) s = .next t ∧ (t.port p).isUp = true ∧ (t.port p).nbr = uid
        ∧ (t.port p).active = (s.port p).laneMap ∧ bitAt (t.port p).nbrInfo.toNat 63 = true
        ∧ ∀ q, q ≠ p.val → t.port q = s.port q)
    ∧ ((s.port p).isUp = true → uid ≠ (s.port p).nbr →
      ∃ t, exec (.probe p ⟨h, uid⟩ port build) s = .next t ∧ (t.port p).isUp = false ∧ (t.port p).nbr = 0
        ∧ bitAt t.glb.fault.toNat 0 = true ∧ ∀ q, q ≠ p.val → t.port q = s.port q)

/-- R288, R409: the first lane of a port that is enabled and DOWN starts its training; a lane lost of a port that is UP leaves the
lanes in use, and the port pauses for a lane-map exchange, or goes DOWN with its last lane. -/
def Claim.LanesComeAndGo : Prop :=
  ∀ (p : Fin 18) (l : Fin 8) (s : State), p.val < s.nPorts → s.tap.pinsHeld = false → (s.port p).holdLanes = false →
    ((s.port p).st = 1 → (s.port p).enable = true → bitAt (s.port p).retire.toNat l = false → s.portLive p = true →
      ∃ t, exec (.laneReady p l) s = .next t ∧ (t.port p).st = 2 ∧ bitAt (t.port p).ready.toNat l = true)
    ∧ ((s.port p).isUp = true → bitAt (s.port p).active.toNat l = true →
      ∃ t, exec (.laneLost p l) s = .next t ∧ bitAt (t.port p).active.toNat l = false
        ∧ bitAt (t.port p).ready.toNat l = false
        ∧ ((s.port p).ready &&& ~~~(BitVec.ofNat 8 (2 ^ l.val)) &&& ~~~(s.port p).retire = 0 → (t.port p).isUp = false)
        ∧ ((s.port p).ready &&& ~~~(BitVec.ofNat 8 (2 ^ l.val)) &&& ~~~(s.port p).retire ≠ 0 →
            (t.port p).isUp = true ∧ (t.port p).paused = true))

/-- R287, R348: a lane map restripes a port that is UP onto the lanes both ends have; the pause is over, and every frame not yet
acknowledged is sent again in order, unless an activation of the FABRIC region keeps the port paused. With no lane shared the port
leaves service. -/
def Claim.LaneMapShared : Prop :=
  ∀ (p : Fin 18) (h : LinkCtl) (m : BitVec 8) (s : State), s.tap.pinsHeld = false → (s.port p).isUp = true →
    ((s.port p).laneMap &&& m ≠ 0 → ∃ t, exec (.lanemap p ⟨h, m⟩) s = .next t ∧ (t.port p).isUp = true
      ∧ (t.port p).active = (s.port p).laneMap &&& m ∧ (t.port p).paused = s.fabricPaused
      ∧ (s.fabricPaused = false →
          (t.port p).again = ((s.port p).header h).replay.map (fun f => { f with ack := (s.port p).rxSeq - 1 }))
      ∧ ∀ q, q ≠ p.val → t.port q = s.port q)
    ∧ ((s.port p).laneMap &&& m = 0 → ∃ t, exec (.lanemap p ⟨h, m⟩) s = .next t ∧ (t.port p).isUp = false
      ∧ bitAt t.glb.fault.toNat 0 = true)

/-- R287, R288, R325: writes of FAB_PORT_CFG. ENABLE = 0 takes the port DOWN; RESTART takes it out of service to train anew; lanes
that RETIRE adds leave a port that is UP by a lane-map exchange; lanes it gives back rejoin by one as soon as LINK's operating
point serves the width, and wait until then; a lowering under way counts as done. -/
def Claim.PortConfigured : Prop :=
  ∀ (p : Fin 18) (v : Word) (s : State), s.serving = true → p.val < s.nPorts →
    let retire : BitVec 8 := BitVec.ofNat 8 (field v.toNat 55 48)
    (bitAt v.toNat 0 = false →
      ∃ t, exec (.portEnableWrite p v) s = .next t ∧ (t.port p).st = 1 ∧ (t.port p).enable = false ∧ (t.port p).retire = retire)
    ∧ (bitAt v.toNat 0 = true → bitAt v.toNat 1 = true →
      ∃ t, exec (.portRestart p v) s = .next t ∧ (t.port p).isUp = false ∧ (t.port p).enable = true
        ∧ (t.port p).replay = [] ∧ (t.port p).txq = [])
    ∧ (bitAt v.toNat 0 = true → bitAt v.toNat 1 = false → (s.port p).isUp = true → (s.port p).enable = true →
        (s.port p).holdLanes = false → retire ≠ (s.port p).retire →
      ((s.port p).retire &&& ~~~retire = 0 → (s.port p).ready &&& ~~~retire ≠ 0 →
        ∃ t, exec (.laneRetire p v) s = .next t ∧ (t.port p).isUp = true ∧ (t.port p).retire = retire ∧ (t.port p).paused = true
          ∧ (t.port p).active = (s.port p).active)
      ∧ (retire &&& ~~~(s.port p).retire = 0 → (s.port p).ready &&& ~~~retire ≠ 0 →
        ∃ t, exec (.laneRejoin p v) s = .next t ∧ (t.port p).isUp = true ∧ (t.port p).retire = retire
          ∧ (t.linkFloor ≤ s.linkPoint → (t.port p).paused = true)
          ∧ (s.linkPoint < t.linkFloor → (t.port p).holdLanes = true ∧ (t.port p).paused = (s.port p).paused)))

/-- R286: an ACK frees the frames up to its number and returns its credit; frames wait for nothing else where none is queued. -/
def Claim.AckFrees : Prop :=
  ∀ (p : Fin 18) (n : BitVec 16) (v : BitVec 2) (k : BitVec 12) (s : State), s.tap.pinsHeld = false → (s.port p).isUp = true →
    (s.port p).txq = [] →
    (∃ f ∈ (s.port p).replay, f.seq = n) →
    exec (.ack p n v k) s = .next (s.setPort p { s.port p with
      acked := n, replays := 0, replay := (s.port p).replay.drop ((n - (s.port p).acked).toNat)
      credit := (s.port p).credit.set v.toNat (listGet (s.port p).credit v.toNat + k.toNat) })

/-- R286: an expiry with frames unacknowledged sends every one of them again, in order, with the acknowledgement of the moment, and keeps
them; the sixteenth replay in a row takes the port DOWN, as an event. A NAK that names no frame kept does so too, and returns its
credit. -/
def Claim.Replays : Prop :=
  ∀ (p : Fin 18) (s : State), s.tap.pinsHeld = false → (s.port p).isUp = true → (s.port p).replay ≠ [] →
    let sentAgain := fun (t : State) =>
      t = s.setPort p (t.port p) ∧ (t.port p).isUp = true ∧ (t.port p).replays = (s.port p).replays + 1
      ∧ (t.port p).again = (s.port p).replay.map (fun f => { f with ack := (s.port p).rxSeq - 1 })
      ∧ (t.port p).replay = (s.port p).replay ∧ (t.port p).txSeq = (s.port p).txSeq ∧ (t.port p).txq = (s.port p).txq
    ((s.port p).replays < 15 →
      (∃ t, exec (.retxExpire p) s = .next t ∧ sentAgain t ∧ (t.port p).credit = (s.port p).credit)
      ∧ ∀ n v k, (∀ f ∈ (s.port p).replay, f.seq ≠ n) → (s.port p).txq = [] →
          ∃ t, exec (.nak p ⟨n, v, k⟩) s = .next t ∧ sentAgain t
            ∧ (t.port p).credit = (s.port p).credit.set v.toNat (listGet (s.port p).credit v.toNat + k.toNat))
    ∧ (15 ≤ (s.port p).replays →
      ∃ t, exec (.retxExpire p) s = .next t ∧ (t.port p).isUp = false ∧ (t.port p).replay = []
        ∧ bitAt t.glb.fault.toNat 0 = true ∧ ∀ q, q ≠ p.val → t.port q = s.port q)

/-- R283, R284, R286, R288: frames accepted are acknowledged, and no freed buffer is left to announce; a port in TRAINING or UP sends its
PROBE on every lane; a bad frame is discarded and counted, with one NAK for a gap, and each uncorrectable codeword counts in UNCORR. -/
def Claim.LinkTimers : Prop :=
  (∀ (p : Fin 18) (s : State), s.tap.pinsHeld = false → (s.port p).isUp = true → 0 < (s.port p).unacked →
    ∃ t, exec (.ackTimer p) s = .next t ∧ (t.port p).unacked = 0 ∧ (t.port p).rxUsed = [0, 0, 0, 0]
      ∧ (∃ v n, (t.port p).sent = wire (linkWord 2 0 0 (s.port p).ackNow v n) []) ∧ (t.port p).replay = (s.port p).replay)
  ∧ (∀ (p : Fin 18) (s : State), s.tap.pinsHeld = false → (s.port p).st = 2 ∨ (s.port p).st = 3 →
    exec (.probeTimer p) s = .next (s.setPort p ((s.port p).outEach (wire (linkWord 5 0 0 (s.port p).ackNow 0 0)
        (natLe 8 s.fuses.uid.toNat ++ natLe 8 (p.val + 2 ^ 8 * s.buildCode))))))
  ∧ ∀ (p : Fin 18) (bytes : List Byte) (words : List (Fin 8 × List Nat)) (s : State), s.tap.pinsHeld = false → (s.port p).isUp = true →
    badBytes (s.port p) bytes = true →
    ∃ t, exec (.badFrame p ⟨bytes, words⟩) s = .next t ∧ t.fab.discards = s.fab.discards + 1 ∧ (t.port p).nakSent = true
      ∧ (t.port p).rxSeq = (s.port p).rxSeq ∧ (t.port p).replay = (s.port p).replay
      ∧ (p.val < s.nPorts → (t.port p).uncorr.toNat = min 0xFFFF ((s.port p).uncorr.toNat + (badLanes words).length))
      ∧ ((s.port p).nakSent = true → badLanes words = [] → t.port p = s.port p)

/-- R282: the blocks of a lane make codewords of its own. Nineteen wait; the twentieth makes one full, of 544 symbols, from which a receiver
that finds no error reads the twenty blocks again. That the code is IEEE 802.3's, twenty blocks to a codeword, is log 112. -/
def Claim.LaneCodewords : Prop :=
  ∀ (x : LaneFec) (b : Nat),
    (x.waiting.length < 19 → x.take b = { x with waiting := x.waiting ++ [b] })
    ∧ (x.waiting.length = 19 → (x.take b).waiting = [] ∧ (x.take b).word.length = 544
        ∧ ((∀ y ∈ x.waiting ++ [b], y < 2 ^ 257) → fecBlocks (x.take b).word = x.waiting ++ [b]))

/-- R291, R296: a frame for another node, in sequence, is taken: with HOPS 0 it is discarded and counted; otherwise it goes out by
the port its route names, with HOPS one less and nothing else of its header or payload changed. -/
def Claim.FramesForward : Prop :=
  ∀ (p : Fin 18) (f : Frame) (s : State), p.val < s.nPorts → s.tap.pinsHeld = false → s.isLocal f = false → (s.port p).isUp = true →
    f.seq = (s.port p).rxSeq → sourceRouted f.hdr.op.toNat = false →
    (f.hdr.hops = 0 → ∃ t, exec (.frameForward p f) s = .next t ∧ t.fab.discards = s.fab.discards + 1
      ∧ (t.port p).rxSeq = (s.port p).rxSeq + 1)
    ∧ (f.hdr.hops ≠ 0 → ∀ q, s.routeOf f.hdr = some q →
      ∃ t, exec (.frameForward p f) s = .next t ∧ (t.port p).rxSeq = (s.port p).rxSeq + 1
        ∧ t.CarriesAt q (fun g => g.hdr = { f.hdr with hops := f.hdr.hops - 1 } ∧ g.payload = f.payload))

/-! ## The owner of a block -/

/-- R42, R242, R290, R300, R303: a READ_REQ at its owner while CROSS runs. This node's own is served at once: read at the stack ports, with
its requests carrying the answer of the current generation's bytes, held by a flip, or answered with the code of a failed check; it waits
where the entry of the owner's window has to be read first. For another node's the walker first reads both copies of the Ledger entry (log
40), and it waits for them. Memory stays. -/
def Claim.ReadServed : Prop :=
  ∀ (p : Ingress) (f : Frame) (s : State), s.Arrives p 0x01 f → s.crossRuns = true →
    (s.Resolved p → s.OwnerReady ⟨p, f, 0⟩ → ∃ t, exec (.readReq p f) s = .next t ∧ s.ReadAnswered ⟨p, f, 0⟩ t)
    ∧ (s.Resolved p → ¬ s.OwnerReady ⟨p, f, 0⟩ → ∃ t, exec (.readReq p f) s = .next t ∧ t.stks = s.stks
        ∧ t.fab.resolving = s.fab.resolving ++ [⟨p, f, 0⟩])
    ∧ (¬ s.Resolved p → s.ledgerA < 12 → s.stackState s.ledgerA ≠ 3 → ∃ t, exec (.readReq p f) s = .next t ∧ t.stks = s.stks
        ∧ t.fab.resolving = s.fab.resolving ++ [⟨p, f, 0⟩] ∧ t.outstanding (.resolve ⟨p, f, 0⟩) = true)

/-- R260, R300, R303: once the last read for it completes, a request that alone is being resolved is served, where no copy of the Ledger
entry loses; where one does, it is rewritten first in a locked sequence of the walker, if that is free (log 40). This is said of a unit with
nothing else that waits for a stack. -/
def Claim.RequestResolved : Prop :=
  ∀ (k : Fin 12) (tag : BitVec 10) (s : State) (r : Req) (a : Arrival),
    s.stackState k ≠ 3 → s.crossRuns = true → (s.stackPort k).find false tag.toNat = some r → r.by_ = .resolve a →
    s.xb.held = [] → s.responseHeld r = false → s.fab.resolving = [a] → s.fab.heldWrites = [] → s.fab.ledgerQ = [] → s.ownerMisses a = [] →
    (∀ j, ∀ q ∈ (s.stackPort j).wait, q.by_ ≠ .resolve a) →
    (∀ j, ∀ q ∈ (s.stackPort j).reqs, q.by_ = .resolve a → j = k.val ∧ q.write = false ∧ q.tag = some tag.toNat) →
    ∃ t, exec (.stackReadResponse k tag false) s = .next t
      ∧ (a.port = none ∨ s.ledgerOff = true ∨ s.nextRewrite [a.frame.hdr.entry / 8] = none → t.fab.resolving = []
          ∧ (a.frame.hdr.op = 0x01 → s.ReadAnswered a t) ∧ (a.frame.hdr.op = 0x03 → s.WriteAnswered a t))
      ∧ (a.port ≠ none → s.ledgerOff = false → ∀ n l, s.nextRewrite [a.frame.hdr.entry / 8] = some (n, l) →
          t.stks = s.stks ∧ t.fab.resolving = [a]
          ∧ (s.walkerFree n = true → t.xb.locks = s.xb.locks ++ [⟨28, n, .rewrite l none (some a)⟩]))

/-- R290, R303: the last response of a WRITE's or READ_REQ's requests sends the answer they carry, as it is; an earlier one sends
nothing. -/
def Claim.AnswerLeaves : Prop :=
  ∀ (k : Fin 12) (tag : BitVec 10) (write : Bool) (s : State) (r : Req) (c w : Nat) (g : Frame),
    s.stackState k ≠ 3 → s.crossRuns = true → (s.stackPort k).find write tag.toNat = some r → r.by_ = .remote c w → r.ackTo = some g →
    s.xb.held = [] → s.responseHeld r = false → s.fab.resolving = [] → s.fab.heldWrites = [] → s.fab.ledgerQ = [] →
    let resp := exec (if write then .stackWriteResponse k tag false else .stackReadResponse k tag false) s
    let last := (∀ j, ∀ q ∈ (s.stackPort j).wait, q.ackTo ≠ some g)
      ∧ ∀ j, ∀ q ∈ (s.stackPort j).reqs, q.ackTo = some g → j = k.val ∧ q.write = write ∧ q.tag = some tag.toNat
    (last → s.Reaches g.hdr.dst → ∃ t, resp = .next t ∧ t.stks = s.stks
      ∧ t.Carries (fun x => x.hdr = g.hdr ∧ x.payload = g.payload))
    ∧ (¬ last → ∃ t, resp = .next t ∧ t.fab = s.fab ∧ t.stks = s.stks)

/-- R242, R252, R273, R300, R303, R305: a WRITE at its owner while CROSS runs. This node's own is served at once: one that replaces whole
bytes leaves its payload in the region it goes to, with its acknowledgement on its requests; one that combines takes a locked sequence
on one stack port (stripe by stripe, log 18); one that a flip, pins or a catch-up hold waits, as does one whose generation is
not open here yet (log 128); one that fails a check is answered with its code. It waits where the entry of the owner's window has to be
read first (R42), and another node's waits for the walker (log 40). -/
def Claim.WriteServed : Prop :=
  ∀ (p : Ingress) (f : Frame) (s : State), s.Arrives p 0x03 f → s.crossRuns = true →
    (s.Resolved p → s.OwnerReady ⟨p, f, 0⟩ → ∃ t, exec (.write p f) s = .next t ∧ s.WriteAnswered ⟨p, f, 0⟩ t)
    ∧ (s.Resolved p → ¬ s.OwnerReady ⟨p, f, 0⟩ → ∃ t, exec (.write p f) s = .next t ∧ t.stks = s.stks
        ∧ t.fab.resolving = s.fab.resolving ++ [⟨p, f, 0⟩])
    ∧ (¬ s.Resolved p → s.ledgerA < 12 → s.stackState s.ledgerA ≠ 3 → ∃ t, exec (.write p f) s = .next t ∧ t.stks = s.stks
        ∧ t.fab.resolving = s.fab.resolving ++ [⟨p, f, 0⟩] ∧ t.outstanding (.resolve ⟨p, f, 0⟩) = true)

/-! ## The requester -/

/-- R292, R305: a READ_RESP with STATUS 0 ends its transaction, and the elements it brings land in the staging destination of the RGET
at HEAD, each with its own bits. -/
def Claim.ReadLands : Prop :=
  ∀ (p : Ingress) (f : Frame) (s : State) (x : Txn) (i : Cur), s.Arrives p 0x02 f → f.hdr.status = 0 →
    s.fab.txns.find? (fun t => decide (t.txn = f.hdr.txn ∧ t.write = false)) = some x → s.fab.waiting = [] →
    s.head x.ctx = some i → i.is opRget = true →
    (∀ e ∈ x.dest, ∃ g, (s.destAt x.ctx i e.1).2.place = .cell g) →
    x.dest.Pairwise (fun a b => Loc.Apart (s.destAt x.ctx i a.1).2 (s.destAt x.ctx i b.1).2) →
    ∃ t, exec (.readResp p f) s = .next t ∧ (∀ y ∈ t.fab.txns, y.txn ≠ f.hdr.txn)
      ∧ ∀ e ∈ x.dest, t.readLoc (s.destAt x.ctx i e.1).2
          = leNat f.payload / 2 ^ e.2 % 2 ^ fmtBits (i.slotFmt 3) % 2 ^ (s.destAt x.ctx i e.1).2.bits

/-- R292: a WRITE_ACK with STATUS 0 ends its transaction; RESIDENCY keeps it, to be sent again with the same number; a response to no
outstanding request is discarded; any other STATUS stops the fabric instruction with that code. -/
def Claim.AnswersAtRequester : Prop :=
  ∀ (p : Ingress) (f : Frame) (s : State), s.Arrives p 0x04 f →
    (s.fab.txns.find? (fun t => decide (t.txn = f.hdr.txn ∧ t.write = true)) = none →
      ∃ t, exec (.writeAck p f) s = .next t ∧ t.fab.txns = s.fab.txns ∧ t.ctxs = s.ctxs ∧ t.stks = s.stks)
    ∧ ∀ x, s.fab.txns.find? (fun t => decide (t.txn = f.hdr.txn ∧ t.write = true)) = some x →
      (f.hdr.status = 0 → s.fab.waiting = [] → ∃ t, exec (.writeAck p f) s = .next t
        ∧ t.fab.txns = s.fab.txns.filter (fun y => decide (y.txn ≠ x.txn)) ∧ t.stks = s.stks)
      ∧ (f.hdr.status = 0x04 → ∃ t, exec (.writeAck p f) s = .next t
        ∧ t.fab.txns = s.fab.txns.map (fun y => if y.txn = x.txn then { y with resident := true } else y) ∧ t.ctxs = s.ctxs)
      ∧ (f.hdr.status ≠ 0 → f.hdr.status ≠ 0x04 → ∀ i, s.head x.ctx = some i → s.active x.ctx = true → i.isFabric = true →
          i.phase ≠ .ready → (s.ctx x.ctx).gen.abortBit = false →
        ∃ t, exec (.writeAck p f) s = .next t ∧ (t.ctx x.ctx).run.st = .stopped ∧ (t.ctx x.ctx).run.cause = 3
          ∧ (t.ctx x.ctx).run.fcode = f.hdr.status ∧ (t.ctx x.ctx).run.head = (s.ctx x.ctx).run.head)

/-- R292, R301: a read without an answer is sent again, three times at most; then it stops its instruction, unless a replica serves it,
with TIMEOUT or with what the lookup of the replica found; a write without an answer does so at once, with TIMEOUT. A request
answered RESIDENCY leaves again as it was. -/
def Claim.RequestsTimeOut : Prop :=
  ∀ (n : BitVec 16) (s : State) (x : Txn), s.fab.txns.find? (fun t => decide (t.txn = n)) = some x →
    (x.write = false → x.resident = false → x.retries < 3 →
      ∃ t, exec (.reqTimeoutExpire n) s = .next t ∧ t.ctxs = s.ctxs ∧ t.stks = s.stks
        ∧ ∃ y, (y ∈ t.fab.txns ∨ y ∈ t.fab.waiting) ∧ y.retries = x.retries + 1 ∧ y.ctx = x.ctx ∧ y.dest = x.dest
          ∧ y.frame.hdr.dst = x.frame.hdr.dst ∧ y.frame.hdr.w2 = x.frame.hdr.w2)
    ∧ (x.write = true → s.replicaOf x 0x0A = .error 0x0A)
    ∧ (x.write = true ∨ 3 ≤ x.retries → ∀ code, s.replicaOf x 0x0A = .error code → ∀ i, s.head x.ctx = some i → s.active x.ctx = true →
        i.isFabric = true → i.phase ≠ .ready → (s.ctx x.ctx).gen.abortBit = false →
      ∃ t, exec (.reqTimeoutExpire n) s = .next t ∧ (t.ctx x.ctx).run.st = .stopped
        ∧ (t.ctx x.ctx).run.fcode = BitVec.ofNat 8 code)
    ∧ (x.resident = true → s.Reaches x.frame.hdr.dst →
      ∃ t, exec (.residencyRetry n) s = .next t ∧ t.fab.txns = s.fab.txns ∧ t.ctxs = s.ctxs
        ∧ t.Carries (fun g => g.hdr = x.frame.hdr ∧ g.payload = x.frame.payload))

/-! ## Fabric instructions -/

/-- R128, R305: an RGET into staging with accepted indices and Ledger entries that name other nodes and need no rewrite sends one read
for each run; its local part is over, HEAD stays. With a faulting index it stops with that fault and sends nothing. -/
def Claim.RgetSendsReads : Prop :=
  ∀ (c : Fin 64) (s : State) (i : Cur), s.Begins c opRget i → s.fabricWaits c i = false → (s.ctx c).gen.abortBit = false → (s.ctx c).gen.member ≠ .aborted →
    let b := s.begun c i
    (∀ d, i.descAt 0 = some d → i.slotSpace 3 = 1 →
      b.1.gatherFault c b.2 0 (fun w => decide (b.2.fabricPos ≤ w)) = none →
      let runs := b.1.rgetRuns c b.2 d (i.ledgerOf 0).2.1 (fun w => decide (b.2.fabricPos ≤ w))
      (∀ r ∈ runs, ∃ o, b.1.lookup (r.entry (i.ledgerOf 0).1 (i.ledgerOf 0).2.1) = .ok o ∧ o.node ≠ s.fab.addr) →
      ∃ u k, exec (.rget c) s = .next u ∧ u.head c = some k ∧ k.phase = .moved ∧ k.word = i.word
        ∧ (u.ctx c).run = { (s.ctx c).run with resumable := false }
        ∧ u.fab.txns.length + u.fab.waiting.length = s.fab.txns.length + s.fab.waiting.length + runs.length)
    ∧ (∀ f, b.1.gatherFault c b.2 0 (fun w => decide (b.2.fabricPos ≤ w)) = some f →
      ∃ u, exec (.rget c) s = .next u ∧ (u.ctx c).run.st = .stopped ∧ (u.ctx c).run.fcode = BitVec.ofNat 8 f.code
        ∧ (u.ctx c).run.head = (s.ctx c).run.head ∧ u.fab.txns = s.fab.txns)

/-- R305: an RPUT with accepted indices and no clash of its own sends one WRITE for each run and copy of its block, where the Ledger
entries name other nodes; its local part is over, HEAD stays. -/
def Claim.RputSendsWrites : Prop :=
  ∀ (c : Fin 64) (s : State) (i : Cur) (d : TDesc), s.Begins c opRput i → s.fabricWaits c i = false → (s.ctx c).gen.member ≠ .aborted → i.descAt 2 = some d →
    let b := s.begun c i
    let all := b.1.rputAll c b.2 d (i.ledgerOf 2).2.1 (fun w => decide (b.2.fabricPos ≤ w))
    let sent := all.1.flatMap (fun r => b.1.copiesOf (r.1.entry (i.ledgerOf 2).1 (i.ledgerOf 2).2.1))
    b.1.rputFault c b.2 = none → (∀ e ∈ sent, ∃ o, b.1.lookup e = .ok o ∧ o.node ≠ s.fab.addr) →
    ∃ u k, exec (.rput c) s = .next u ∧ u.head c = some k ∧ k.phase = .moved ∧ k.word = i.word
      ∧ (u.ctx c).run = { (s.ctx c).run with resumable := false }
      ∧ u.fab.txns.length + u.fab.waiting.length = s.fab.txns.length + s.fab.waiting.length + sent.length

/-- R304: a RESHARD whose source entries resolve and none of whose source blocks this context owns sends nothing and is over; one that
moves under an aborted generation stops with GEN_ABORTED. -/
def Claim.ReshardWithoutBlocks : Prop :=
  ∀ (c : Fin 64) (s : State) (i : Cur) (a d : TDesc), s.Begins c opReshard i → s.fabricWaits c i = false → i.descAt 0 = some a → i.descAt 2 = some d →
    let b := s.begun c i
    ((s.ctx c).gen.member ≠ .aborted → b.1.sourceFault (i.ledgerOf 0).1 (i.ledgerOf 0).2.2 = none →
      b.1.blocksToSend c (i.ledgerOf 0).1 (i.ledgerOf 0).2.2 (fun w => decide (b.2.fabricPos ≤ w)) = [] →
      ∃ u k, exec (.reshard c) s = .next u ∧ u.head c = some k ∧ k.phase = .moved ∧ k.word = i.word
        ∧ (u.ctx c).run = { (s.ctx c).run with resumable := false } ∧ u.fab = (b.1.walkAll b.2).fab ∧ u.stks = b.1.stks)
    ∧ ((s.ctx c).gen.member = .aborted → (s.ctx c).gen.abortBit = false →
      ∃ u, exec (.reshard c) s = .next u ∧ (u.ctx c).run.st = .stopped ∧ (u.ctx c).run.fcode = 0x16
        ∧ (u.ctx c).run.head = (s.ctx c).run.head ∧ (u.ctx c).gen.member = .idle)

/-- R304: a source block of this context's, resident and with destination entries that name other nodes, is read once, as its bytes in
CTX_PERF_BYTES show, and sent whole: its runs become transactions. Memory stays as cell setup leaves it. -/
def Claim.ReshardSendsBlock : Prop :=
  ∀ (c : Fin 64) (s : State) (i : Cur) (a d : TDesc) (num : Nat), s.Begins c opReshard i → s.fabricWaits c i = false →
    i.descAt 0 = some a → i.descAt 2 = some d → (s.ctx c).gen.member ≠ .aborted →
    let b := s.begun c i
    let src := i.ledgerOf 0
    let dst := i.ledgerOf 2
    b.1.sourceFault src.1 src.2.2 = none → b.1.blocksToSend c src.1 src.2.2 (fun w => decide (b.2.fabricPos ≤ w)) = [num] →
    ∀ oc w base, b.1.ownerCheck false (src.1 + num) 0 src.2.1 src.2.1 (b.1.homeOf (src.1 + num)) 0 = .ok oc w base →
    let runs := runsOf true dst.2.1 (fmtBits d.f) (b.1.blockItems a d src.2.1 num (oc, w) (b.1.winEff oc w) base)
    let sent := runs.flatMap (fun r => b.1.copiesOf (r.entry dst.1 dst.2.1))
    (∀ e ∈ (src.1 + num) :: sent, ∃ o, b.1.lookup e = .ok o) → (∀ e ∈ sent, b.1.ownerNode e ≠ s.fab.addr) →
    ∃ u k, exec (.reshard c) s = .next u ∧ u.head c = some k ∧ k.phase = .moved ∧ k.word = i.word
      ∧ u.fab.txns.length + u.fab.waiting.length = s.fab.txns.length + s.fab.waiting.length + sent.length
      ∧ u.stks = b.1.stks ∧ (u.ctx c).perfBytes = satAdd (b.1.ctx c).perfBytes src.2.1

/-! ## Fabric-wide generations: the coordinator -/

/-- R307 steps 1 and 2: joins are counted once each; the last one opens the next generation, and every member that can be reached is
told; joins that disagree in MEMBERSM1 end it in an abort. That a message names its group by GID in ENTRY is the model's reading (log
53). -/
def Claim.JoinsOpen : Prop :=
  ∀ (p : Ingress) (f : Frame) (s : State) (x : Coord), s.Arrives p 0x08 f → s.coordGet (gidOf f) = some x → x.decided = none →
    x.forming = true →
    let members := f.hdr.boff % 2 ^ 20 + 1
    let who := (f.hdr.src.toNat, f.hdr.ctx.toNat)
    (x.members = members → who ∈ x.joins → x.joins.length ≠ members → ∃ t, exec (.genJoin p f) s = .next t
      ∧ t.coordGet (gidOf f) = some x)
    ∧ (x.members = members → who ∉ x.joins → x.joins.length + 1 ≠ members → ∃ t, exec (.genJoin p f) s = .next t
      ∧ t.coordGet (gidOf f) = some { x with joins := x.joins ++ [who] })
    ∧ (x.members = members → who ∉ x.joins → x.joins.length + 1 = members → ∃ t, exec (.genJoin p f) s = .next t
      ∧ t.coordGet (gidOf f) = some { x with joins := x.joins ++ [who], fgen := x.fgen + 1, forming := false, votes := [] }
      ∧ ∀ m ∈ x.joins ++ [who], s.Reaches (BitVec.ofNat 20 m.1) →
          t.Carries (fun g => g.hdr.op = 0x09 ∧ g.hdr.dst = BitVec.ofNat 20 m.1 ∧ g.hdr.ctx = BitVec.ofNat 6 m.2 ∧ g.hdr.fgen = x.fgen + 1))
    ∧ (x.members ≠ members → ∃ t y, exec (.genJoin p f) s = .next t ∧ t.coordGet (gidOf f) = some y ∧ y.decided = some false)

/-- R307 step 5: the last vote decides commit, and every member that can be reached is told; before it nothing is decided. -/
def Claim.VotesDecide : Prop :=
  ∀ (p : Ingress) (f : Frame) (s : State) (x : Coord), s.Arrives p 0x0A f → s.coordGet (gidOf f) = some x → x.decided = none →
    x.forming = false → x.fgen = f.hdr.fgen →
    let who := (f.hdr.src.toNat, f.hdr.ctx.toNat)
    who ∈ x.joins → who ∉ x.votes →
    (x.votes.length + 1 ≠ x.members → ∃ t, exec (.genVote p f) s = .next t
      ∧ t.coordGet (gidOf f) = some { x with votes := x.votes ++ [who] })
    ∧ (x.votes.length + 1 = x.members → ∃ t, exec (.genVote p f) s = .next t
      ∧ t.coordGet (gidOf f) = some { x with votes := x.votes ++ [who], decided := some true, lastCommitted := x.fgen }
      ∧ ∀ m ∈ x.joins, s.Reaches (BitVec.ofNat 20 m.1) →
          t.Carries (fun g => g.hdr.op = 0x0B ∧ g.hdr.dst = BitVec.ofNat 20 m.1 ∧ g.hdr.ctx = BitVec.ofNat 6 m.2
            ∧ g.hdr.fgen = x.fgen ∧ g.hdr.status = 0))

/-- R307, R308, R311: a request to abort before the decision, or a time that runs out, decides abort; once decided, nothing changes
the decision, and an inquiry is answered with it, which is the model's reading for the coordinator (log 54). -/
def Claim.AbortDecided : Prop :=
  (∀ (p : Ingress) (f : Frame) (s : State) (x : Coord), s.Arrives p 0x0C f → s.coordGet (gidOf f) = some x →
    (x.decided = none → f.hdr.fgen = 0 ∨ f.hdr.fgen = x.named → ∃ t, exec (.genAbortReq p f) s = .next t
      ∧ t.coordGet (gidOf f) = some { x with decided := some false }
      ∧ ∀ m ∈ x.joins, s.Reaches (BitVec.ofNat 20 m.1) →
          t.Carries (fun g => g.hdr.op = 0x0B ∧ g.hdr.dst = BitVec.ofNat 20 m.1 ∧ g.hdr.status = 0x16))
    ∧ (x.decided ≠ none → ∃ t, exec (.genAbortReq p f) s = .next t ∧ t.coordGet (gidOf f) = some x))
  ∧ (∀ (k : Nat) (s : State) (x : Coord), s.coordGet (BitVec.ofNat 16 k) = some x →
    (x.decided = none → (x.forming = true ∧ x.joins ≠ []) ∨ (x.forming = false ∧ x.votes ≠ []) →
      ∃ t, exec (.genTimeoutExpire true k) s = .next t ∧ t.coordGet (BitVec.ofNat 16 k) = some { x with decided := some false })
    ∧ (x.decided ≠ none → exec (.genTimeoutExpire true k) s = .next s))
  ∧ ∀ (p : Ingress) (f : Frame) (s : State) (x : Coord) (b : Bool), s.Arrives p 0x0D f → s.coordGet (gidOf f) = some x →
    x.decided = some b → x.forming = false → x.fgen = f.hdr.fgen → s.Reaches f.hdr.src →
    ∃ t, exec (.genInquire p f) s = .next t ∧ t.fab.coord = s.fab.coord
      ∧ t.Carries (fun g => g.hdr.op = 0x0B ∧ g.hdr.dst = f.hdr.src ∧ g.hdr.fgen = f.hdr.fgen ∧ g.hdr.status = if b then 0 else 0x16)

/-! ## Fabric-wide generations: the members -/

/-- R307 steps 1 and 3, R308 (its last sentence as the model reads it, log 53): GEN with FAB = 1 asks its coordinator to join and waits, with no generation open; it asks again every
REQ_TIMEOUT; GEN_OPEN opens the generation and GEN retires; of a member that has given a generation up and has joined afresh, the first
GEN_OPEN to come only names that generation or answers the fresh join, which the frame does not tell (log 53), and a repetition of the one
it named changes nothing else; GEN_TIMEOUT stops GEN with TIMEOUT. -/
def Claim.MembersJoin : Prop :=
  (∀ (c : Fin 64) (s : State) (i : Cur), s.readyHead c opGen .ready = some i → (s.ctx c).gen.isOpen = false →
    bitAt i.word.toNat 119 = true →
    ∃ t, exec (.gen c) s = .next t ∧ t.head c = some { i with phase := .waiting } ∧ (t.ctx c).gen.member = .joining
      ∧ (t.ctx c).gen.isOpen = false ∧ (t.ctx c).run = (s.ctx c).run
      ∧ (s.Reaches (s.coordOf c) → t.Carries (fun g => g.hdr.op = 0x08 ∧ g.hdr.dst = s.coordOf c ∧ g.hdr.ctx = BitVec.ofNat 6 c)))
  ∧ (∀ (c : Fin 64) (s : State) (i : Cur), s.waitHead c opGen = some i → (s.ctx c).gen.member = .joining →
    (s.Reaches (s.coordOf c) → ∃ t, exec (.genJoinResend c) s = .next t ∧ t.ctxs = s.ctxs
      ∧ t.Carries (fun g => g.hdr.op = 0x08 ∧ g.hdr.dst = s.coordOf c ∧ g.hdr.ctx = BitVec.ofNat 6 c))
    ∧ ((s.ctx c).gen.abortBit = false → ∃ t, exec (.genTimeoutExpire false c) s = .next t ∧ (t.ctx c).run.st = .stopped
      ∧ (t.ctx c).run.fcode = 0x0A ∧ (t.ctx c).gen.member = .idle ∧ (t.ctx c).run.head = (s.ctx c).run.head
      ∧ (t.ctx c).gen.isOpen = (s.ctx c).gen.isOpen))
  ∧ ∀ (p : Ingress) (f : Frame) (s : State) (c : Nat) (i : Cur), s.Arrives p 0x09 f →
    let given := s.memberOf (gidOf f) (fun g => g.givenUp f.hdr.fgen && (decide (g.member = .joining) || decide (g.member = .idle)))
    let named := fun (t : State) => t.ctx c = { s.ctx c with gen := { (s.ctx c).gen with staleOpen := some f.hdr.fgen } }
    let opened := fun (t : State) => s.HeadMoved c t ∧ (t.ctx c).gen.isOpen = true ∧ (t.ctx c).gen.fab = true
      ∧ (t.ctx c).gen.fgen = f.hdr.fgen ∧ (t.ctx c).gen.writeSet = [] ∧ (t.ctx c).gen.member = .open_
    (given = none → s.memberOf (gidOf f) (fun g => decide (g.member = .joining)) = some c → s.waitHead c opGen = some i →
      s.NothingDue c → s.fab.heldWrites = [] →
      ∃ t, exec (.genOpen p f) s = .next t ∧ opened t)
    ∧ (given = some c → (s.ctx c).gen.member ≠ .joining ∨ (s.ctx c).gen.staleOpen ≠ none → ∃ t, exec (.genOpen p f) s = .next t ∧ named t)
    ∧ (given = some c → (s.ctx c).gen.member = .joining → s.waitHead c opGen = some i → s.NothingDue c → s.fab.heldWrites = [] →
      ∃ t, exec (.genOpen p f) s = .next t ∧ (named t ∨ opened t))

/-- R307 steps 4 and 6, R311 (as the model reads it, log 54): COMMIT of a fabric-wide generation votes once every WRITE is acknowledged;
a commit decision begins the flip where something was written, and otherwise ends the generation, once its records can be written
(R258); an abort decision, of the coordinator or of a member that was not asked, releases it with LAST 3, and so does a second
GEN_TIMEOUT of a member that has asked for the decision. -/
def Claim.MembersDecide : Prop :=
  (∀ (c : Fin 64) (s : State) (i : Cur), s.readyHead c opCommit .ready = some i → (s.ctx c).gen.isOpen = true →
    (s.ctx c).gen.fab = true → (s.ctx c).gen.member = .open_ → s.writesDone c = true →
    ∃ t, exec (.commit c) s = .next t ∧ t.head c = some { i with phase := .waiting } ∧ (t.ctx c).gen.member = .voted
      ∧ (t.ctx c).gen.isOpen = true
      ∧ (s.Reaches (s.coordOf c) → t.Carries (fun g => g.hdr.op = 0x0A ∧ g.hdr.dst = s.coordOf c ∧ g.hdr.fgen = (s.ctx c).gen.fgen)))
  ∧ (∀ (p : Ingress) (f : Frame) (s : State) (c : Nat) (i : Cur), s.Arrives p 0x0B f → f.hdr.status = 0 →
    s.memberOf (gidOf f) (fun g => (decide (g.member = .open_) || decide (g.member = .voted)) && decide (g.fgen = f.hdr.fgen)
      && decide (g.member = .voted)) = some c → s.waitHead c opCommit = some i →
    ∃ t, exec (.genDecide p f) s = .next t
      ∧ ((s.ctx c).gen.writeSet ≠ [] → (t.ctx c).gen.flip = .begun ∧ (t.ctx c).gen.seq = (s.ctx c).gen.seq + 1
          ∧ t.head c = some { i with phase := .flipping } ∧ (t.ctx c).gen.isOpen = true)
      ∧ ((s.ctx c).gen.writeSet = [] → s.NothingDue c → s.recordsHeld c = false → s.HeadMoved c t ∧ (t.ctx c).gen.isOpen = false ∧ (t.ctx c).gen.last = 1))
  ∧ (∀ (c : Fin 64) (s : State), (s.ctx c).gen.member = .voted → (s.ctx c).gen.asked ≠ [] → (s.ctx c).gen.abortBit = false →
    s.fab.heldWrites = [] →
    ∃ t, exec (.genTimeoutExpire false c) s = .next t ∧ (t.ctx c).gen.isOpen = false ∧ (t.ctx c).gen.last = 3
      ∧ (t.ctx c).gen.writeSet = [])
  ∧ ∀ (p : Ingress) (f : Frame) (s : State) (c : Nat), s.Arrives p 0x0B f → f.hdr.status ≠ 0 →
    s.memberOf (gidOf f) (fun g => (decide (g.member = .open_) || decide (g.member = .voted)) && decide (g.fgen = f.hdr.fgen)) = some c →
    (s.ctx c).gen.asked.contains f.hdr.src = false ∨ f.hdr.src = s.coordOf c →
    (s.ctx c).gen.abortBit = false → s.fab.heldWrites = [] →
    ∃ t, exec (.genDecide p f) s = .next t ∧ (t.ctx c).gen.isOpen = false ∧ (t.ctx c).gen.last = 3 ∧ (t.ctx c).gen.writeSet = []
      ∧ (t.ctx c).win = (s.ctx c).win ∧ (t.ctx c).gen.seq = (s.ctx c).gen.seq

/-! ## The Ledger -/

/-- R273, R299, R313: an update with the Ledger in use, its stacks free and no fabric-wide generation open begins a locked sequence of
the owner-table walker, which names the stack port of the first copy (the model's reading, log 18) and begins with a read; while one is open
it waits, and RESULT says so; with the Ledger disabled it ends at once (the model's choice, log 86). None of these writes an entry. -/
def Claim.LedgerUpdateBegins : Prop :=
  (∀ (v : Word) (s : State), s.serving = true → s.fab.ledgerGo = false → bitAt v.toNat 0 = true → s.fab.ledgerQ = [] →
    let r : LedgerReq := ⟨field v.toNat 63 40, s.fab.ledgerSet, true, none⟩
    ∃ t, exec (.ledgerCmdGo v) s = .next t ∧ t.stks = s.stks ∧ t.fab.ledgerEntry.toNat = field v.toNat 63 40
      ∧ (s.fabGenOpen = true → t.fab.ledgerQ = [r] ∧ t.fab.ledgerResult = 2 ∧ t.fab.ledgerGo = true ∧ t.xb.locks = s.xb.locks)
      ∧ (s.fabGenOpen = false → s.walkerFree s.ledgerA = true → s.ledgerOff = false →
          t.fab.ledgerQ = [] ∧ t.fab.ledgerGo = true ∧ t.xb.locks = s.xb.locks ++ [⟨28, s.ledgerA, .ledger r⟩])
      ∧ (s.fabGenOpen = false → s.walkerFree s.ledgerA = true → s.ledgerOff = true → t.fab.ledgerGo = false ∧ t.xb.locks = s.xb.locks))
  ∧ (∀ (s : State) (r : LedgerReq) (rest : List LedgerReq), s.fab.ledgerQ = r :: rest →
    (s.fabGenOpen = true → exec .ledgerDeferredApply s = .next s)
    ∧ (s.fabGenOpen = false → s.walkerFree s.ledgerA = true → s.ledgerOff = false →
      ∃ t, exec .ledgerDeferredApply s = .next t ∧ t = { s with fab := { s.fab with ledgerQ := rest }, xb := t.xb }
        ∧ t.xb.locks = s.xb.locks ++ [⟨28, s.ledgerA, .ledger r⟩]))
  ∧ ∀ (p : Ingress) (f : Frame) (s : State), s.Arrives p 0x10 f →
    ∃ t, exec (.ledgerSet p f) s = .next t ∧ t.stks = s.stks
      ∧ (f.hdr.src ≠ s.fab.rootAddr → t.fab.discards = s.fab.discards + 1 ∧ t.fab.ledgerQ = s.fab.ledgerQ ∧ t.xb.locks = s.xb.locks)
      ∧ (f.hdr.src = s.fab.rootAddr → s.fab.ledgerQ = [] → s.fabGenOpen = false → s.walkerFree s.ledgerA = true → s.ledgerOff = false →
          t.xb.locks = s.xb.locks ++ [⟨28, s.ledgerA, .ledger ⟨f.hdr.entry, BitVec.ofNat 64 (leNat (f.payload.take 8)), false, some ⟨p, f, 0⟩⟩⟩])

/-- R179, R260, R273, R299: when an update's sequence closes both copies of the entry hold the new value, with GEN one newer, and no owner
cache keeps the old one; the lock is released, and RESULT of FAB_LEDGER_CMD says that it is applied, or that the entry was DIVERGENT
(log 126). When the sequence of a rewrite closes, each copy of its lines in that stack is the winner. -/
def Claim.LedgerUpdateCloses : Prop :=
  (∀ (m : Fin 30) (s : State) (k : Nat) (lines : List Nat) (who : Option (Nat × BitVec 32)) (req : Option Arrival),
    s.lockOf m = some ⟨m, k, .rewrite lines who req⟩ → s.outstanding (.combine m) = false → s.fab.heldWrites = [] → s.fab.resolving = [] →
    ∃ t, exec (.lockedSequenceClose m) s = .next t ∧ t.ctxs = s.ctxs
      ∧ ∀ n ∈ lines, ∀ j, j < 8 → ∀ w, s.ledgerWin (8 * n + j) = some w → t.ledgerCopy k (8 * n + j) = w)
  ∧ ∀ (m : Fin 30) (s : State) (k : Nat) (r : LedgerReq), s.lockOf m = some ⟨m, k, .ledger r⟩ → s.outstanding (.combine m) = false →
    s.fab.heldWrites = [] → s.fab.resolving = [] → s.ledgerOff = false →
    ∃ t, exec (.lockedSequenceClose m) s = .next t
      ∧ t.ledgerCopy t.ledgerA r.entry = s.ledgerNew r.entry r.word ∧ t.ledgerCopy t.ledgerB r.entry = s.ledgerNew r.entry r.word
      ∧ (∀ n, (n, r.entry) ∉ t.fab.ownerCache)
      ∧ (r.fromCmd = true → s.fab.ledgerQ = [] → t.fab.ledgerGo = false
          ∧ t.fab.ledgerResult = if s.ledgerWin r.entry = none then 3 else 1)
      ∧ (s.fab.ledgerQ = [] → t.xb.locks = s.xb.locks.filter (fun l => decide (l.master ≠ m.val)))

/-- R179, R274: a locked sequence that lasts too long is cut off and recorded: its target, its master and one more in COUNT. Its held
writes are discarded, so no byte changes; an instruction that a rewrite serves stops with LOCK_TIMEOUT, and a request of another node is
answered so. -/
def Claim.LockCutOff : Prop :=
  ∀ (m : Fin 30) (s : State) (l : Lock), s.lockOf m = some l → s.fab.heldWrites = [] →
    (s.fab.resolving = [] ∨ ∃ lines who a, l.job = .rewrite lines who (some a) ∧ s.fab.resolving = [a]) →
    (∀ lines c n req, l.job = .rewrite lines (some (c, n)) req → (s.ctx c).gen.abortBit = false) →
    ∃ t, exec (.lockTimeout m) s = .next t ∧ t.stks = s.stks ∧ t.xb.lockValid = true
      ∧ t.xb.lockTarget = BitVec.ofNat 6 l.target ∧ t.xb.lockMaster = BitVec.ofNat 5 l.master
      ∧ t.xb.lockCount = (if s.xb.lockCount = 0xFFFFFFFF then 0xFFFFFFFF else s.xb.lockCount + 1)
      ∧ (∀ lines who a, l.job = .rewrite lines who (some a) → a.frame.hdr.op = 0x01 ∨ a.frame.hdr.op = 0x03 →
          s.Reaches a.frame.hdr.src → t.Carries (fun g => g.hdr.dst = a.frame.hdr.src ∧ g.hdr.txn = a.frame.hdr.txn
            ∧ g.hdr.op = a.frame.hdr.op + 1 ∧ g.hdr.status = 0x14))
      ∧ ∀ lines c i req, l.job = .rewrite lines (some (c, i.n)) req → s.head c = some i → s.active c = true → i.isFabric = true →
          i.phase = .ready → (t.ctx c).run.st = .stopped ∧ (t.ctx c).run.cause = 3 ∧ (t.ctx c).run.fcode = 0x14
            ∧ (t.ctx c).run.head = (s.ctx c).run.head

/-! ## Management -/

/-- R290, R293, R294: a management frame of the root is acted on (REG_RD answers with what the register reads, REG_WR of FAB_NODE sets
the node's address); one of another node is discarded and counted. What the root itself has to send leaves this node, a source-routed
frame by PORT[0] with HPTR = 1 (R295). The payload's layout is the model's (log 52), as is the way the root's frames reach it (log
108). -/
def Claim.ManagementFrames : Prop :=
  (∀ (p : Ingress) (f : Frame) (s u : State), s.Arrives p 0x18 f → s.take p f = some u → s.mgmtOk f = true →
    mgmtPage (leNat (f.payload.take 8)) = true → leNat (f.payload.take 8) % 8 = 0 → s.Reaches f.hdr.src →
    ∃ t, exec (.regRd p f) s = .next t ∧ t.Carries (fun g => g.hdr.op = 0x1A ∧ g.hdr.dst = f.hdr.src ∧ g.hdr.txn = f.hdr.txn
      ∧ g.hdr.status = 0 ∧ g.payload = natLe 8 (u.cpRead (leNat (f.payload.take 8))).toNat))
  ∧ (∀ (p : Ingress) (f : Frame) (s : State), s.Arrives p 0x19 f →
    (s.mgmtOk f = false → ∃ t, exec (.regWr p f) s = .next t ∧ t.fab.discards = s.fab.discards + 1 ∧ t.fab.addr = s.fab.addr
      ∧ t.fab.route = s.fab.route ∧ t.fab.ledger = s.fab.ledger)
    ∧ (s.mgmtOk f = true → leNat (f.payload.take 8) = 0x400010 →
      ∃ t, exec (.regWr p f) s = .next t ∧ t.fab.addrValid = true
        ∧ t.fab.addr.toNat = field (leNat ((f.payload.drop 8).take 8)) 59 40
        ∧ t.fab.rootAddr.toNat = field (leNat ((f.payload.drop 8).take 8)) 39 20))
  ∧ (∀ (f : Frame) (s : State), s.fab.root = true → f ∉ s.fab.loop →
    (f.hdr.op = 0x10 → s.Reaches f.hdr.dst → ∃ t, exec (.ledgerSet none f) s = .next t
      ∧ t.Carries (fun g => g.hdr.op = 0x10 ∧ g.hdr.dst = f.hdr.dst ∧ g.hdr.src = s.fab.addr ∧ g.payload = f.payload))
    ∧ (f.hdr.op = 0x18 → f.hdr.routePort 0 < s.nPorts → (s.port (f.hdr.routePort 0)).isUp = true →
      ∃ t, exec (.regRd none f) s = .next t
      ∧ t.Carries (fun g => g.hdr.op = 0x18 ∧ g.hdr.hptr = 1 ∧ g.hdr.src = s.fab.addr ∧ g.payload = f.payload)))
  ∧ (∀ (v : Word) (s : State), s.serving = true → exec (.nodeAddrWrite v) s = .next { s with fab := { s.fab with
      addrValid := true, root := bitAt v.toNat 62, addr := BitVec.ofNat 20 (field v.toNat 59 40)
      rootAddr := BitVec.ofNat 20 (field v.toNat 39 20) } })
  ∧ (∀ (p : Ingress) (f : Frame) (s : State), s.Arrives p 0x1A f →
    ∃ t, exec (.mgmtResp p f) s = .next t ∧ t.fab.mgmtResp = some f ∧ t.fab.txns = s.fab.txns ∧ t.stks = s.stks)
  ∧ ∀ (p : Ingress) (f : Frame) (s : State) (op : Nat), s.Arrives p op f → opKnown op = false →
    ∃ t, exec (.reservedOpFrame p f) s = .next t ∧ t.fab.discards = s.fab.discards + 1 ∧ t.stks = s.stks ∧ t.ctxs = s.ctxs

/-! ## The statements -/

/-- A step runs the command in front: the part above. -/
def Obligations.StepRunsFront : Prop :=
  Claim.StepRunsFront

/-- What every command keeps: the part above. -/
def Obligations.CommandsKeepQueue : Prop :=
  Claim.ExecKeepsQueue

/-- R336 and R387: the control port before it is served: the part above. -/
def Obligations.PortNotServed : Prop :=
  Claim.PortNotServed

/-- R186 and R187: the tail and the head of a context's ring: the parts above, together. -/
def Obligations.RingRegisters : Prop :=
  Claim.DoorbellAccepted ∧ Claim.DoorbellRejected ∧ Claim.DoorbellNeverLaps ∧ Claim.HeadWriteAccepted ∧ Claim.HeadWriteRejected

/-- RUN and STOP of a context: the parts above, together. -/
def Obligations.RunAndStop : Prop :=
  Claim.RunLeavesStopped ∧ Claim.RunChecksTable ∧ Claim.StopAtBoundary ∧ Claim.StopOfWait

/-- R194 and R195: semaphores from the control port: the parts above, together. -/
def Obligations.SemaphorePort : Prop :=
  Claim.SemWriteSetsPair ∧ Claim.SemPairResolves ∧ Claim.SemSignalAdds ∧ Claim.SemSignalRejected

/-- WIN_SYNC and CTX_WINTAB: the parts above, together. -/
def Obligations.WindowSynchronisation : Prop :=
  Claim.WindowCacheDiscarded ∧ Claim.WinSyncReportsIdle

/-- ABORT and REPLAY from the control port: the parts above, together. -/
def Obligations.HostAbortAndReplay : Prop :=
  Claim.HostAbortCases ∧ Claim.ReplayRefused ∧ Claim.ReplayRestarts

/-- Interrupt registers and the messages they send: the parts above, together. -/
def Obligations.InterruptsAndMessages : Prop :=
  Claim.IrqWrites ∧ Claim.IrqEnableSends ∧ Claim.MsiEnableWrites ∧ Claim.MessagesLeave

/-- Accesses of the control port: the parts above, together. -/
def Obligations.RegisterAccess : Prop :=
  Claim.BadAccess ∧ Claim.MisalignedWrite ∧ Claim.RegisterWrites ∧ Claim.IrqWrites ∧ Claim.MsiEnableWrites

/-- Fetch and decode: the parts above, together. -/
def Obligations.FrontEnd : Prop :=
  Claim.FetchReadsRing ∧ Claim.DecodeMovesNothing ∧ Claim.DecodeOneAhead ∧ Claim.DecodeD1

/-- How instructions retire: the parts above, together. -/
def Obligations.RetirementOfInstructions : Prop :=
  Claim.NopRetires ∧ Claim.HaltStops ∧ Claim.RetireWaitsForPorts

/-- Waits on semaphores: the parts above, together. -/
def Obligations.SemaphoreWaits : Prop :=
  Claim.SwaitTakes ∧ Claim.SwaitWaits ∧ Claim.SwaitWakes ∧ Claim.WaitBoundTestsWaiterFirst

/-- SSIGNAL and FENCE (with log 100): the parts above, together. -/
def Obligations.SignalsAndFences : Prop :=
  Claim.SsignalAdds ∧ Claim.SsignalOverflows ∧ Claim.FenceCases

/-- GEN, COMMIT and ABORT: the parts above, together. -/
def Obligations.GenerationSpans : Prop :=
  Claim.GenOpens ∧ Claim.CommitAbortWithoutGeneration ∧ Claim.AbortReleases

/-- Flips and their catch-up: the parts above, together. -/
def Obligations.FlipSteps : Prop :=
  Claim.FlipBegins ∧ Claim.FlipPointAdvances ∧ Claim.FlipCompletes ∧ Claim.CatchupCleans ∧ Claim.PublishedRegionKept

/-- Saving, switching and restoring contexts: the parts above, together. -/
def Obligations.ContextSwitches : Prop :=
  Claim.CtxsaveWrites ∧ Claim.SwitchOutReleases ∧ Claim.RestoreOwns ∧ Claim.QuantumExpires

/-- The tile instructions: the parts above, together. -/
def Obligations.TileInstructions : Prop :=
  Claim.TileBecomesValid ∧ Claim.TrelEmpties

/-- The instructions that move elements: the parts above, together. -/
def Obligations.MoveInstructions : Prop :=
  Claim.CopiesFinish ∧ Claim.EmptyMovesNothing ∧ Claim.RotIndexInverse

/-- The phases of the index instructions: the parts above, together. -/
def Obligations.IndexInstructions : Prop :=
  Claim.GatherSortkCases ∧ Claim.IndexPhasesBegin ∧ Claim.PhaseBarrier

/-- A stop asked for at a halt point: the part above. -/
def Obligations.HaltPointStops : Prop :=
  Claim.HaltPointStops

/-- PERM places every element: the part above. -/
def Obligations.PermPlacesElements : Prop :=
  Claim.PermPlacesElements

/-- An element write keeps every other bit: the part above. -/
def Obligations.WritesKeepNeighbours : Prop :=
  Claim.WritesKeepNeighbours

/-- A decoded value encodes to itself: the part above. -/
def Obligations.EncodeExactIsIdentity : Prop :=
  Claim.EncodeExactIsIdentity

/-- The rounding modes and what an overflow writes: the parts above, together. -/
def Obligations.RoundingAndOverflow : Prop :=
  Claim.OverflowRows ∧ Claim.RoundingModes

/-- Index modes and bucket outputs: the parts above, together. -/
def Obligations.IndexSemantics : Prop :=
  Claim.IndexModes ∧ Claim.BucketOutputs

/-- SORTK's order: the part above. -/
def Obligations.SortIsStable : Prop :=
  Claim.SortIsStable

/-- Opening, feeding and closing stream queues: the parts above, together. -/
def Obligations.QueueLifecycle : Prop :=
  Claim.SopenOpensQueues ∧ Claim.SblockAppendsOrWaits ∧ Claim.ScloseByState ∧ Claim.ClosingQueueCloses

/-- The Carousel: the parts above, together. -/
def Obligations.CarouselRotation : Prop :=
  Claim.CarouselStarts ∧ Claim.CarouselRotates ∧ Claim.UpsetHoldsRotation

/-- Which token leaves, and how: the parts above, together. -/
def Obligations.TokensSent : Prop :=
  Claim.GrantIsMostUrgent ∧ Claim.TokenSent

/-- What an arriving token does: the parts above, together. -/
def Obligations.TokensReceived : Prop :=
  Claim.DataTokenLands ∧ Claim.ControlTokenWaits ∧ Claim.CreditsReturned

/-- Pair timeouts, signalled blocks and rates: the parts above, together. -/
def Obligations.StreamEvents : Prop :=
  Claim.PairTimeoutFaults ∧ Claim.BlockSignalledOnce ∧ Claim.RateMeasured

/-- A fence takes a cell down: the part above. -/
def Obligations.FenceTakesCellDown : Prop :=
  Claim.FenceTakesCellDown

/-- Beats of the array edge: the parts above, together. -/
def Obligations.BeatEdges : Prop :=
  Claim.BeatEdgeIssuesOrHolds ∧ Claim.StretchTimeoutFaults ∧ Claim.LayerAdvances

/-- Fabric time and its ticks: the parts above, together. -/
def Obligations.FabricTime : Prop :=
  Claim.TickAdvancesTime ∧ Claim.Increments ∧ Claim.TimeSetSteps ∧ Claim.SyncInEdges ∧ Claim.SyncOutPulses

/-- Following another unit's time: the parts above, together. -/
def Obligations.FollowerTime : Prop :=
  Claim.FollowerLocks ∧ Claim.HoldoverRuns

/-- The reference and the oscillators: the parts above, together. -/
def Obligations.OscillatorAndReference : Prop :=
  Claim.OscillatorProofs ∧ Claim.OscillatorFails ∧ Claim.ReferenceLost ∧ Claim.OscillatorStops ∧ Claim.ClockEvents

/-- Islands and their PLLs: the parts above, together. -/
def Obligations.IslandFrequencies : Prop :=
  Claim.IslandWrite ∧ Claim.IslandSwitchEnds ∧ Claim.PllStops

/-- Operating points, the limiter and power states: the parts above, together. -/
def Obligations.PowerManagement : Prop :=
  Claim.OperatingPoints ∧ Claim.PowerLimiter ∧ Claim.PowerStates

/-- Power-up, reset and the watchdogs: the parts above, together. -/
def Obligations.PowerUpAndWatchdog : Prop :=
  Claim.PowerUpAndReset ∧ Claim.WatchdogResets

/-- The unit after reset: the part above. -/
def Obligations.ResetState : Prop :=
  Claim.ResetState

/-- Stack responses and port events: the parts above, together. -/
def Obligations.StackResponses : Prop :=
  Claim.ResponseRemoves ∧ Claim.FailedRequestStops ∧ Claim.FailedFetchStops ∧ Claim.PortEvents

/-- A stack leaves, moves and returns: the parts above, together. -/
def Obligations.StackService : Prop :=
  Claim.StackRetires ∧ Claim.MigrationEnds ∧ Claim.StackReturns

/-- Loading and checking images: the parts above, together. -/
def Obligations.ImageLoading : Prop :=
  Claim.ImageLoadStarts ∧ Claim.ImageData ∧ Claim.ImageAddressAbsent ∧ Claim.ImageChecked

/-- Activating an image: the parts above, together. -/
def Obligations.ImageActivation : Prop :=
  Claim.ActivationBegins ∧ Claim.DrainEnds ∧ Claim.ActivationCompletes

/-- The scrubber and boot: the parts above, together. -/
def Obligations.ScrubAndBoot : Prop :=
  Claim.ScrubMends ∧ Claim.BootEnds

/-- Locks on regions and firmware reloads: the parts above, together. -/
def Obligations.StewardFirmware : Prop :=
  Claim.LocksHold ∧ Claim.FirmwareReloads

/-- The service lane, self-test and the Taster: the parts above, together. -/
def Obligations.ServiceAndTaster : Prop :=
  Claim.ServiceCommands ∧ Claim.SelfTestEnds ∧ Claim.TasterSamples

/-- The test access port, its instruments and the pins it holds: the parts above, together. -/
def Obligations.TestAccess : Prop :=
  Claim.TestAccess ∧ Claim.Instruments ∧ Claim.HeldPins

/-- Fabric ports and lanes: the parts above, together. -/
def Obligations.PortTraining : Prop :=
  Claim.ProbeTakesPortUp ∧ Claim.LanesComeAndGo ∧ Claim.LaneMapShared ∧ Claim.PortConfigured

/-- The link layer: the parts above, together. -/
def Obligations.LinkLayer : Prop :=
  Claim.AckFrees ∧ Claim.Replays ∧ Claim.LinkTimers ∧ Claim.LaneCodewords ∧ Claim.FramesForward

/-- What the owner of a block does with a request: the parts above, together. -/
def Obligations.BlockOwner : Prop :=
  Claim.ReadServed ∧ Claim.RequestResolved ∧ Claim.AnswerLeaves ∧ Claim.WriteServed

/-- What the requester does with an answer: the parts above, together. -/
def Obligations.BlockRequester : Prop :=
  Claim.ReadLands ∧ Claim.AnswersAtRequester ∧ Claim.RequestsTimeOut

/-- RGET, RPUT and RESHARD: the parts above, together. -/
def Obligations.FabricInstructions : Prop :=
  Claim.RgetSendsReads ∧ Claim.RputSendsWrites ∧ Claim.ReshardWithoutBlocks ∧ Claim.ReshardSendsBlock

/-- A group's coordinator: the parts above, together. -/
def Obligations.GroupCoordinator : Prop :=
  Claim.JoinsOpen ∧ Claim.VotesDecide ∧ Claim.AbortDecided

/-- A group's members: the parts above, together. -/
def Obligations.GroupMembers : Prop :=
  Claim.MembersJoin ∧ Claim.MembersDecide

/-- Ledger updates: the parts above, together. -/
def Obligations.LedgerUpdates : Prop :=
  Claim.LedgerUpdateBegins ∧ Claim.LedgerUpdateCloses ∧ Claim.LockCutOff

/-- Management frames: the part above. -/
def Obligations.ManagementFrames : Prop :=
  Claim.ManagementFrames

end
end

