-- ==== Sys2Proof/Laws/Table.lean ====
section
/-!
SUPPORT. What the operations on tables and byte memories do: a read after a write, that a write leaves every other key alone, and
that every operation on a memory keeps its canonical form.
-/
namespace Sys2Proof

/-! ## Tables -/

theorem tabGet_tabAbove {α : Type} (d : α) (t : Tab α) (j k : Nat) (h : j < k) : tabGet d (tabAbove t j) k = tabGet d t k := by
  induction t with
  | nil => rfl
  | cons e t ih =>
    obtain ⟨i, v⟩ := e
    by_cases hi : i ≤ j
    · have : ¬ k = i := by omega
      have : ¬ k < i := by omega
      simp [tabAbove, tabGet, *]
    · simp [tabAbove, hi]

@[simp] theorem tabGet_tabAbove_self {α : Type} (d : α) (t : Tab α) (k : Nat) : tabGet d (tabAbove t k) k = d := by
  induction t with
  | nil => rfl
  | cons e t ih =>
    obtain ⟨i, v⟩ := e
    by_cases hi : i ≤ k
    · simp [tabAbove, hi, ih]
    · have h1 : ¬ k = i := by omega
      have h2 : k < i := by omega
      simp [tabAbove, hi, tabGet, h1, h2]

/-- A key reads as what it was set to. -/
@[simp] theorem tabGet_tabSet_self {α : Type} [DecidableEq α] (d : α) (t : Tab α) (k : Nat) (v : α) :
    tabGet d (tabSet d t k v) k = v := by
  induction t with
  | nil => by_cases h : v = d <;> simp [tabSet, tabGet, h]
  | cons e t ih =>
    obtain ⟨i, w⟩ := e
    by_cases hi : i < k
    · have h1 : ¬ k = i := by omega
      have h2 : ¬ k < i := by omega
      simp [tabSet, hi, tabGet, h1, h2, ih]
    · by_cases h : v = d
      · simp [tabSet, hi, h]
      · simp [tabSet, hi, h, tabGet]

/-- Every other key reads as before. -/
theorem tabGet_tabSet_ne {α : Type} [DecidableEq α] (d : α) (t : Tab α) (k j : Nat) (v : α) (h : j ≠ k) :
    tabGet d (tabSet d t k v) j = tabGet d t j := by
  induction t with
  | nil =>
    by_cases hv : v = d
    · simp [tabSet, hv]
    · simp [tabSet, hv, tabGet, h]
  | cons e t ih =>
    obtain ⟨i, w⟩ := e
    by_cases hi : i < k
    · simp only [tabSet, hi, if_true, tabGet, ih]
    · have above : k < j → tabGet d (tabAbove ((i, w) :: t) k) j = tabGet d ((i, w) :: t) j := fun hk => tabGet_tabAbove d _ k j hk
      have below : j < k → tabGet d (tabAbove ((i, w) :: t) k) j = d := by
        intro hk
        clear ih above
        generalize (i, w) :: t = l
        induction l with
        | nil => rfl
        | cons e l ih =>
          obtain ⟨a, b⟩ := e
          by_cases ha : a ≤ k
          · simp [tabAbove, ha, ih]
          · have h1 : ¬ j = a := by omega
            have h2 : j < a := by omega
            simp [tabAbove, ha, tabGet, h1, h2]
      rcases Nat.lt_or_gt_of_ne h with hk | hk
      · have h1 : ¬ j = i := by omega
        have h2 : j < i := by omega
        by_cases hv : v = d
        · simp only [tabSet, hi, if_false, hv, if_true, below hk]
          simp [tabGet, h1, h2]
        · simp only [tabSet, hi, if_false, hv]
          simp [tabGet, h, hk, h1, h2]
      · by_cases hv : v = d
        · simp only [tabSet, hi, if_false, hv, if_true, above hk]
        · have h3 : ¬ j < k := by omega
          simp only [tabSet, hi, if_false, hv]
          simp only [tabGet, h, if_false, h3]
          exact above hk

theorem tabGet_tabSet {α : Type} [DecidableEq α] (d : α) (t : Tab α) (k j : Nat) (v : α) :
    tabGet d (tabSet d t k v) j = if j = k then v else tabGet d t j := by
  by_cases h : j = k
  · subst h
    simp
  · simp [h, tabGet_tabSet_ne d t k j v h]

theorem tabAbove_tabAbove {α : Type} (t : Tab α) (k : Nat) : tabAbove (tabAbove t k) k = tabAbove t k := by
  induction t with
  | nil => rfl
  | cons e t ih =>
    obtain ⟨i, v⟩ := e
    by_cases hi : i ≤ k
    · simpa [tabAbove, hi] using ih
    · simp [tabAbove, hi]

/-- The first entry above a key lies above it. -/
theorem tabSet_tabAbove {α : Type} [DecidableEq α] (d : α) (t : Tab α) (k : Nat) (v : α) :
    tabSet d (tabAbove t k) k v = if v = d then tabAbove t k else (k, v) :: tabAbove t k := by
  induction t with
  | nil => rfl
  | cons e t ih =>
    obtain ⟨i, w⟩ := e
    by_cases hi : i ≤ k
    · simpa [tabAbove, hi] using ih
    · have h : ¬ i < k := by omega
      simp [tabAbove, hi, tabSet, h]

/-- The later of two settings of one key stands. -/
@[simp] theorem tabSet_tabSet {α : Type} [DecidableEq α] (d : α) (t : Tab α) (k : Nat) (v w : α) :
    tabSet d (tabSet d t k v) k w = tabSet d t k w := by
  induction t with
  | nil =>
    by_cases hv : v = d <;> by_cases hw : w = d <;> simp [tabSet, tabAbove, hv, hw]
  | cons e t ih =>
    obtain ⟨i, u⟩ := e
    by_cases hi : i < k
    · simp [tabSet, hi, ih]
    · by_cases hv : v = d
      · simp only [tabSet, hi, if_false, hv, if_true]
        rw [tabSet_tabAbove]
      · have h1 : ¬ k < k := by omega
        have h2 : tabAbove ((k, v) :: tabAbove ((i, u) :: t) k) k = tabAbove ((i, u) :: t) k := by
          rw [show tabAbove ((k, v) :: tabAbove ((i, u) :: t) k) k = tabAbove (tabAbove ((i, u) :: t) k) k from by
            simp [tabAbove], tabAbove_tabAbove]
        simp only [tabSet, hi, if_false, hv, h1, h2]

/-- Whatever a set table lists was listed before, or is what was set. -/
theorem mem_tabAbove {α : Type} {t : Tab α} {k : Nat} {e : Nat × α} (h : e ∈ tabAbove t k) : e ∈ t := by
  induction t with
  | nil => simp [tabAbove] at h
  | cons a t ih =>
    obtain ⟨i, w⟩ := a
    by_cases hi : i ≤ k
    · simp only [tabAbove, hi, if_true] at h
      exact List.mem_cons_of_mem _ (ih h)
    · simpa [tabAbove, hi] using h

theorem mem_tabSet {α : Type} [DecidableEq α] {d : α} {t : Tab α} {k : Nat} {v : α} {e : Nat × α} (h : e ∈ tabSet d t k v) :
    e = (k, v) ∨ e ∈ t := by
  induction t with
  | nil =>
    by_cases hv : v = d
    · simp [tabSet, hv] at h
    · simp [tabSet, hv] at h
      exact Or.inl h
  | cons a t ih =>
    obtain ⟨i, w⟩ := a
    by_cases hi : i < k
    · simp only [tabSet, hi, if_true, List.mem_cons] at h
      rcases h with h | h
      · exact Or.inr (by simp [h])
      · rcases ih h with h | h
        · exact Or.inl h
        · exact Or.inr (List.mem_cons_of_mem _ h)
    · by_cases hv : v = d
      · simp only [tabSet, hi, if_false, hv, if_true] at h
        exact Or.inr (mem_tabAbove h)
      · simp only [tabSet, hi, if_false, hv, List.mem_cons] at h
        rcases h with h | h
        · exact Or.inl h
        · exact Or.inr (mem_tabAbove h)

/-- What a table reads is listed, or the default. -/
theorem tabGet_mem {α : Type} (d : α) (t : Tab α) (k : Nat) : tabGet d t k = d ∨ (k, tabGet d t k) ∈ t := by
  induction t with
  | nil => exact Or.inl rfl
  | cons e t ih =>
    obtain ⟨i, v⟩ := e
    by_cases h1 : k = i
    · subst h1
      right
      simp [tabGet]
    · by_cases h2 : k < i
      · left
        simp [tabGet, h1, h2]
      · rcases ih with h | h
        · left
          simpa [tabGet, h1, h2] using h
        · right
          simp only [tabGet, h1, if_false, h2]
          exact List.mem_cons_of_mem _ h

/-! ## The canonical form of a table -/

theorem tabWf_cons {α : Type} [DecidableEq α] (d : α) (j : Nat) (v : α) (t : Tab α) :
    tabWf d ((j, v) :: t) = true ↔ v ≠ d ∧ tabWf d t = true ∧ ∀ e ∈ t, j < e.1 := by
  induction t generalizing j v with
  | nil => simp [tabWf]
  | cons f t ih =>
    obtain ⟨k, w⟩ := f
    simp only [tabWf, Bool.and_eq_true, decide_eq_true_eq]
    constructor
    · rintro ⟨⟨h1, h2⟩, h3⟩
      refine ⟨h1, h3, fun e he => ?_⟩
      rcases List.mem_cons.mp he with rfl | he
      · exact h2
      · exact Nat.lt_trans h2 (((ih k w).mp h3).2.2 e he)
    · rintro ⟨h1, h2, h3⟩
      exact ⟨⟨h1, h3 (k, w) (by simp)⟩, h2⟩

theorem tabWf_tabAbove {α : Type} [DecidableEq α] (d : α) {t : Tab α} (k : Nat) (h : tabWf d t = true) :
    tabWf d (tabAbove t k) = true ∧ ∀ e ∈ tabAbove t k, k < e.1 := by
  induction t with
  | nil => simp [tabAbove, tabWf]
  | cons e t ih =>
    obtain ⟨i, v⟩ := e
    have h1 := (tabWf_cons d i v t).mp h
    by_cases hi : i ≤ k
    · simpa [tabAbove, hi] using ih h1.2.1
    · simp only [tabAbove, hi, if_false]
      refine ⟨h, fun e he => ?_⟩
      rcases List.mem_cons.mp he with rfl | he
      · omega
      · have := h1.2.2 e he
        omega

/-- Setting a key keeps the canonical form. -/
theorem tabWf_tabSet {α : Type} [DecidableEq α] (d : α) {t : Tab α} (k : Nat) (v : α) (h : tabWf d t = true) :
    tabWf d (tabSet d t k v) = true := by
  induction t with
  | nil =>
    by_cases hv : v = d
    · simp [tabSet, hv, tabWf]
    · simp [tabSet, hv, tabWf]
  | cons e t ih =>
    obtain ⟨i, w⟩ := e
    have h1 := (tabWf_cons d i w t).mp h
    by_cases hi : i < k
    · simp only [tabSet, hi, if_true]
      refine (tabWf_cons d i w _).mpr ⟨h1.1, ih h1.2.1, fun f hf => ?_⟩
      rcases mem_tabSet hf with rfl | hf
      · exact hi
      · exact h1.2.2 f hf
    · have h2 := tabWf_tabAbove d k h
      by_cases hv : v = d
      · simp only [tabSet, hi, if_false, hv, if_true]
        exact h2.1
      · simp only [tabSet, hi, if_false, hv]
        exact (tabWf_cons d k v _).mpr ⟨hv, h2.1, h2.2⟩

/-! ## Byte memories -/

theorem cellAt_tabAbove_self (t : Tab Byte) (k : Nat) : cellAt (tabAbove t k) k = none := by
  induction t with
  | nil => rfl
  | cons e t ih =>
    obtain ⟨i, v⟩ := e
    by_cases hi : i ≤ k
    · simp [tabAbove, hi, ih]
    · have h1 : ¬ k = i := by omega
      have h2 : k < i := by omega
      simp [tabAbove, hi, cellAt, h1, h2]

theorem cellAt_tabAbove (t : Tab Byte) (j k : Nat) (h : j < k) : cellAt (tabAbove t j) k = cellAt t k := by
  induction t with
  | nil => rfl
  | cons e t ih =>
    obtain ⟨i, v⟩ := e
    by_cases hi : i ≤ j
    · have h1 : ¬ k = i := by omega
      have h2 : ¬ k < i := by omega
      simp [tabAbove, hi, cellAt, h1, h2, ih]
    · simp [tabAbove, hi]

theorem cellAt_tabAbove_lt (t : Tab Byte) (j k : Nat) (h : j ≤ k) : cellAt (tabAbove t k) j = none := by
  induction t with
  | nil => rfl
  | cons e t ih =>
    obtain ⟨i, v⟩ := e
    by_cases hi : i ≤ k
    · simp [tabAbove, hi, ih]
    · have h1 : ¬ j = i := by omega
      have h2 : j < i := by omega
      simp [tabAbove, hi, cellAt, h1, h2]

theorem cellAt_cellSet_self (t : Tab Byte) (k : Nat) (v : Option Byte) : cellAt (cellSet t k v) k = v := by
  induction t with
  | nil => cases v <;> simp [cellSet, cellAt]
  | cons e t ih =>
    obtain ⟨i, w⟩ := e
    by_cases hi : i < k
    · have h1 : ¬ k = i := by omega
      have h2 : ¬ k < i := by omega
      simp [cellSet, hi, cellAt, h1, h2, ih]
    · cases v with
      | none => simp [cellSet, hi, cellAt_tabAbove_self]
      | some b => simp [cellSet, hi, cellAt]

theorem cellAt_cellSet_ne (t : Tab Byte) (k j : Nat) (v : Option Byte) (h : j ≠ k) : cellAt (cellSet t k v) j = cellAt t j := by
  induction t with
  | nil => cases v <;> simp [cellSet, cellAt, h]
  | cons e t ih =>
    obtain ⟨i, w⟩ := e
    by_cases hi : i < k
    · simp only [cellSet, hi, if_true, cellAt, ih]
    · rcases Nat.lt_or_gt_of_ne h with hk | hk
      · have h1 : ¬ j = i := by omega
        have h2 : j < i := by omega
        cases v with
        | none =>
          simp only [cellSet, hi, if_false]
          rw [cellAt_tabAbove_lt _ _ _ (Nat.le_of_lt hk)]
          simp [cellAt, h1, h2]
        | some b => simp [cellSet, hi, cellAt, h, hk, h1, h2]
      · have h3 : ¬ j < k := by omega
        cases v with
        | none =>
          simp only [cellSet, hi, if_false]
          exact cellAt_tabAbove _ _ _ hk
        | some b =>
          simp only [cellSet, hi, if_false, cellAt, h, h3]
          exact cellAt_tabAbove _ _ _ hk

theorem undefByte_of_not_hidden (l : List Undef) (a : Nat) (h : l.any (fun u => decide (u.lo ≤ a ∧ a < u.hi)) = false) :
    undefByte l a = 0 := by
  induction l with
  | nil => rfl
  | cons u l ih =>
    simp only [List.any_cons, Bool.or_eq_false_iff, decide_eq_false_iff_not] at h
    simp only [undefByte, h.1, if_false]
    exact ih h.2

/-- A byte reads as what was written to it. -/
@[simp] theorem Mem.get_set_self (m : Mem) (a : Nat) (b : Byte) : (m.set a b).get a = b := by
  simp only [Mem.get, Mem.set, cellAt_cellSet_self]
  by_cases h : b = 0 ∧ m.hidden a = false
  · simp only [h, and_self, if_true]
    exact undefByte_of_not_hidden _ _ h.2
  · simp only [h, if_false]

/-- Every other byte reads as before. -/
theorem Mem.get_set_ne (m : Mem) (a c : Nat) (b : Byte) (h : c ≠ a) : (m.set a b).get c = m.get c := by
  simp only [Mem.get, Mem.set, cellAt_cellSet_ne _ _ _ _ h]

theorem Mem.get_set (m : Mem) (a c : Nat) (b : Byte) : (m.set a b).get c = if c = a then b else m.get c := by
  by_cases h : c = a
  · subst h
    simp
  · simp [h, Mem.get_set_ne _ _ _ _ h]

/-- A byte below a written range, or at or above its end, reads as before. -/
theorem Mem.get_write_out (bs : List Byte) (m : Mem) (a c : Nat) (h : c < a ∨ a + bs.length ≤ c) : (m.write a bs).get c = m.get c := by
  induction bs generalizing m a with
  | nil => rfl
  | cons b bs ih =>
    simp only [List.length_cons] at h
    rw [Mem.write, ih _ _ (by omega), Mem.get_set_ne _ _ _ _ (by omega)]

/-- A byte of a written range reads as the byte written there. -/
theorem Mem.get_write_in (bs : List Byte) (m : Mem) (a i : Nat) (h : i < bs.length) : (m.write a bs).get (a + i) = bs[i] := by
  induction bs generalizing m a i with
  | nil => simp at h
  | cons b bs ih =>
    rw [Mem.write]
    cases i with
    | zero => rw [Mem.get_write_out _ _ _ _ (by omega)]; simp
    | succ i =>
      have := ih (m.set a b) (a + 1) i (by simpa using h)
      rw [show a + (i + 1) = a + 1 + i from by omega, this]
      simp

/-- A range reads as what was written to it. -/
theorem Mem.read_write (m : Mem) (a : Nat) (bs : List Byte) : (m.write a bs).read a bs.length = bs := by
  apply List.ext_getElem
  · simp [Mem.read]
  · intro i h1 h2
    simp only [Mem.read, List.getElem_map, List.getElem_range]
    exact Mem.get_write_in bs m a i h2

/-! ## The canonical form of a memory -/

@[simp] theorem Mem.wf_blank : Mem.blank.wf = true := rfl

theorem cellsRise_tail {e : Nat × Byte} {t : Tab Byte} (h : cellsRise (e :: t) = true) : cellsRise t = true := by
  obtain ⟨i, v⟩ := e
  cases t with
  | nil => rfl
  | cons f t =>
    obtain ⟨j, w⟩ := f
    simp only [cellsRise, Bool.and_eq_true] at h
    exact h.2

/-- In a list that rises every later key is greater. -/
theorem cellsRise_head {i : Nat} {v : Byte} {t : Tab Byte} (h : cellsRise ((i, v) :: t) = true) : ∀ e ∈ t, i < e.1 := by
  induction t generalizing i v with
  | nil => simp
  | cons f t ih =>
    obtain ⟨j, w⟩ := f
    simp only [cellsRise, Bool.and_eq_true, decide_eq_true_eq] at h
    intro e he
    rcases List.mem_cons.mp he with rfl | he
    · exact h.1
    · exact Nat.lt_trans h.1 (ih h.2 e he)

theorem cellsRise_cons {i : Nat} {v : Byte} {t : Tab Byte} (h : cellsRise t = true) (k : ∀ e ∈ t, i < e.1) :
    cellsRise ((i, v) :: t) = true := by
  cases t with
  | nil => rfl
  | cons f t =>
    obtain ⟨j, w⟩ := f
    simp only [cellsRise, Bool.and_eq_true, decide_eq_true_eq]
    exact ⟨k (j, w) (by simp), h⟩

theorem cellsRise_filter {t : Tab Byte} (p : Nat × Byte → Bool) (h : cellsRise t = true) : cellsRise (t.filter p) = true := by
  induction t with
  | nil => rfl
  | cons e t ih =>
    have h1 := ih (cellsRise_tail h)
    by_cases hp : p e = true
    · rw [List.filter_cons_of_pos hp]
      obtain ⟨i, v⟩ := e
      exact cellsRise_cons h1 (fun f hf => cellsRise_head h f ((List.mem_filter.mp hf).1))
    · rw [List.filter_cons_of_neg hp]
      exact h1

theorem tabAbove_gt {t : Tab Byte} (k : Nat) (h : cellsRise t = true) : ∀ e ∈ tabAbove t k, k < e.1 := by
  induction t with
  | nil => simp [tabAbove]
  | cons e t ih =>
    obtain ⟨i, v⟩ := e
    by_cases hi : i ≤ k
    · simpa [tabAbove, hi] using ih (cellsRise_tail h)
    · intro f hf
      simp only [tabAbove, hi, if_false] at hf
      rcases List.mem_cons.mp hf with rfl | hf
      · omega
      · have := cellsRise_head h f hf
        omega

theorem cellsRise_tabAbove {t : Tab Byte} (k : Nat) (h : cellsRise t = true) : cellsRise (tabAbove t k) = true := by
  induction t with
  | nil => rfl
  | cons e t ih =>
    obtain ⟨i, v⟩ := e
    by_cases hi : i ≤ k
    · simpa [tabAbove, hi] using ih (cellsRise_tail h)
    · simpa [tabAbove, hi] using h

theorem mem_cellSet {t : Tab Byte} {k : Nat} {v : Option Byte} {e : Nat × Byte} (h : e ∈ cellSet t k v) :
    (e.1 = k ∧ v = some e.2) ∨ e ∈ t := by
  induction t with
  | nil =>
    cases v with
    | none => simp [cellSet] at h
    | some b =>
      simp [cellSet] at h
      exact Or.inl (by simp [h])
  | cons a t ih =>
    obtain ⟨i, w⟩ := a
    by_cases hi : i < k
    · simp only [cellSet, hi, if_true, List.mem_cons] at h
      rcases h with h | h
      · exact Or.inr (by simp [h])
      · rcases ih h with h | h
        · exact Or.inl h
        · exact Or.inr (List.mem_cons_of_mem _ h)
    · cases v with
      | none =>
        simp only [cellSet, hi, if_false] at h
        exact Or.inr (mem_tabAbove h)
      | some b =>
        simp only [cellSet, hi, if_false, List.mem_cons] at h
        rcases h with h | h
        · exact Or.inl (by simp [h])
        · exact Or.inr (mem_tabAbove h)

theorem cellsRise_cellSet {t : Tab Byte} (k : Nat) (v : Option Byte) (h : cellsRise t = true) : cellsRise (cellSet t k v) = true := by
  induction t with
  | nil => cases v <;> rfl
  | cons e t ih =>
    obtain ⟨i, w⟩ := e
    by_cases hi : i < k
    · simp only [cellSet, hi, if_true]
      refine cellsRise_cons (ih (cellsRise_tail h)) (fun f hf => ?_)
      rcases mem_cellSet hf with hf | hf
      · omega
      · exact cellsRise_head h f hf
    · cases v with
      | none =>
        simp only [cellSet, hi, if_false]
        exact cellsRise_tabAbove _ h
      | some b =>
        simp only [cellSet, hi, if_false]
        exact cellsRise_cons (cellsRise_tabAbove _ h) (tabAbove_gt _ h)

/-- A written byte keeps the canonical form. -/
theorem Mem.wf_set (m : Mem) (a : Nat) (b : Byte) (h : m.wf = true) : (m.set a b).wf = true := by
  simp only [Mem.wf, Bool.and_eq_true] at h ⊢
  refine ⟨cellsRise_cellSet _ _ h.1, List.all_eq_true.mpr (fun e he => ?_)⟩
  rcases mem_cellSet he with ⟨h1, h2⟩ | he
  · by_cases hb : b = 0 ∧ m.hidden a = false
    · simp [hb] at h2
    · simp only [hb, if_false, Option.some.injEq] at h2
      rw [h1, ← h2]
      by_cases h0 : b = 0
      · have : m.hidden a = true := by simpa [h0] using hb
        simp only [Bool.or_eq_true]
        exact Or.inr this
      · simp only [Bool.or_eq_true]
        exact Or.inl (decide_eq_true h0)
  · exact (List.all_eq_true.mp h.2) e he

/-- Written bytes keep the canonical form. -/
theorem Mem.wf_write (bs : List Byte) (m : Mem) (a : Nat) (h : m.wf = true) : (m.write a bs).wf = true := by
  induction bs generalizing m a with
  | nil => exact h
  | cons b bs ih => exact ih _ _ (Mem.wf_set m a b h)

/-- An interval that becomes undefined keeps the canonical form. -/
theorem Mem.wf_scramble (m : Mem) (lo hi seed : Nat) (h : m.wf = true) : (m.scramble lo hi seed).wf = true := by
  simp only [Mem.wf, Bool.and_eq_true] at h ⊢
  refine ⟨cellsRise_filter _ h.1, List.all_eq_true.mpr (fun e he => ?_)⟩
  have := (List.all_eq_true.mp h.2) e ((List.mem_filter.mp he).1)
  simp only [Bool.or_eq_true] at this ⊢
  rcases this with h | h
  · exact Or.inl h
  · right
    simp only [Mem.scramble, Mem.hidden, List.any_cons, Bool.or_eq_true]
    exact Or.inr h

theorem cellAt_none_of_lt {t : Tab Byte} {k : Nat} (h : ∀ e ∈ t, k < e.1) : cellAt t k = none := by
  cases t with
  | nil => rfl
  | cons e t =>
    obtain ⟨i, v⟩ := e
    have h1 : k < i := h (i, v) (by simp)
    have h2 : ¬ k = i := by omega
    simp [cellAt, h1, h2]

theorem cellAt_mem {t : Tab Byte} {k : Nat} {b : Byte} (h : cellAt t k = some b) : (k, b) ∈ t := by
  induction t with
  | nil => simp [cellAt] at h
  | cons e t ih =>
    obtain ⟨i, v⟩ := e
    by_cases h1 : k = i
    · subst h1
      simp only [cellAt, if_true, Option.some.injEq] at h
      simp [h]
    · by_cases h2 : k < i
      · simp [cellAt, h1, h2] at h
      · simp only [cellAt, h1, h2, if_false] at h
        exact List.mem_cons_of_mem _ (ih h)

/-- Filtering a list that rises leaves the reading of a key it keeps as it was. -/
theorem cellAt_filter {t : Tab Byte} (p : Nat → Bool) (k : Nat) (hk : p k = true) (h : cellsRise t = true) :
    cellAt (t.filter (fun e => p e.1)) k = cellAt t k := by
  induction t with
  | nil => rfl
  | cons e t ih =>
    obtain ⟨i, v⟩ := e
    have h1 := ih (cellsRise_tail h)
    by_cases hp : p i = true
    · simp only [List.filter_cons, hp, if_true, cellAt, h1]
    · rw [List.filter_cons_of_neg (by simpa using hp), h1]
      simp only [cellAt]
      have h2 : ¬ k = i := fun h => hp (h ▸ hk)
      by_cases h3 : k < i
      · simp only [h2, h3, if_true, if_false]
        exact cellAt_none_of_lt (fun f hf => Nat.lt_trans h3 (cellsRise_head h f hf))
      · simp only [h2, h3, if_false]

/-- Outside an interval that becomes undefined every byte reads as before. -/
theorem Mem.get_scramble_out (m : Mem) (lo hi seed a : Nat) (hm : m.wf = true) (h : a < lo ∨ hi ≤ a) :
    (m.scramble lo hi seed).get a = m.get a := by
  have hn : ¬ (lo ≤ a ∧ a < hi) := by omega
  simp only [Mem.wf, Bool.and_eq_true] at hm
  simp only [Mem.get, Mem.scramble, undefByte, hn, if_false]
  rw [cellAt_filter (fun k => !decide (lo ≤ k ∧ k < hi)) a (by simp only [hn, decide_false, Bool.not_false]) hm.1]

/-- Inside it every byte is free. -/
theorem Mem.get_scramble_in (m : Mem) (lo hi seed a : Nat) (h : lo ≤ a ∧ a < hi) :
    (m.scramble lo hi seed).get a = Config.freeByte seed a := by
  have hc : cellAt (m.cells.filter (fun e => !decide (lo ≤ e.1 ∧ e.1 < hi))) a = none := by
    cases hx : cellAt (m.cells.filter (fun e => !decide (lo ≤ e.1 ∧ e.1 < hi))) a with
    | none => rfl
    | some b =>
      have := (List.mem_filter.mp (cellAt_mem hx)).2
      simp [h] at this
  simp only [Mem.get, Mem.scramble, hc, undefByte, h, and_self, if_true]

end Sys2Proof
end

