-- ==== Sys2Proof/Laws/State.lean ====
section
/-!
SUPPORT. What each update of the state leaves and what it changes: one lemma for each field and update, true by unfolding, and the
reads after an update through the accessors.
-/
namespace Sys2Proof.Machine

variable (s : State)

/-! ## Updates by a function are updates by a value -/

@[simp] theorem State.updCtx_eq (c : Nat) (f : Ctx → Ctx) : s.updCtx c f = s.setCtx c (f (s.ctx c)) := rfl
@[simp] theorem State.updCell_eq (g : Nat) (f : Cell → Cell) : s.updCell g f = s.setCell g (f (s.cell g)) := rfl
@[simp] theorem State.updSlice_eq (n : Nat) (f : Slice → Slice) : s.updSlice n f = s.setSlice n (f (s.slice n)) := rfl
@[simp] theorem State.updPort_eq (p : Nat) (f : Port → Port) : s.updPort p f = s.setPort p (f (s.port p)) := rfl
@[simp] theorem State.updRegion_eq (r : Nat) (f : Region → Region) : s.updRegion r f = s.setRegion r (f (s.region r)) := rfl
@[simp] theorem State.updRun_eq (c : Nat) (f : CtxRun → CtxRun) :
    s.updRun c f = s.setCtx c { s.ctx c with run := f (s.ctx c).run } := rfl
@[simp] theorem State.updGen_eq (c : Nat) (f : CtxGen → CtxGen) :
    s.updGen c f = s.setCtx c { s.ctx c with gen := f (s.ctx c).gen } := rfl
@[simp] theorem State.setQueue_eq (g q : Nat) (y : Queue) : s.setQueue g q y = s.setCell g ((s.cell g).setQueue q y) := rfl
@[simp] theorem State.updQueue_eq (g q : Nat) (f : Queue → Queue) :
    s.updQueue g q f = s.setCell g ((s.cell g).setQueue q (f (s.queue g q))) := rfl

/-! ## setCtx -/

@[simp] theorem State.setCtx_build (c : Nat) (x : Ctx) : (s.setCtx c x).build = s.build := rfl
@[simp] theorem State.setCtx_fuses (c : Nat) (x : Ctx) : (s.setCtx c x).fuses = s.fuses := rfl
@[simp] theorem State.setCtx_pwr (c : Nat) (x : Ctx) : (s.setCtx c x).pwr = s.pwr := rfl
@[simp] theorem State.setCtx_glb (c : Nat) (x : Ctx) : (s.setCtx c x).glb = s.glb := rfl
@[simp] theorem State.setCtx_clk (c : Nat) (x : Ctx) : (s.setCtx c x).clk = s.clk := rfl
@[simp] theorem State.setCtx_time (c : Nat) (x : Ctx) : (s.setCtx c x).time = s.time := rfl
@[simp] theorem State.setCtx_beat (c : Nat) (x : Ctx) : (s.setCtx c x).beat = s.beat := rfl
@[simp] theorem State.setCtx_cfg (c : Nat) (x : Ctx) : (s.setCtx c x).cfg = s.cfg := rfl
@[simp] theorem State.setCtx_xb (c : Nat) (x : Ctx) : (s.setCtx c x).xb = s.xb := rfl
@[simp] theorem State.setCtx_fab (c : Nat) (x : Ctx) : (s.setCtx c x).fab = s.fab := rfl
@[simp] theorem State.setCtx_slices (c : Nat) (x : Ctx) : (s.setCtx c x).slices = s.slices := rfl
@[simp] theorem State.setCtx_cells (c : Nat) (x : Ctx) : (s.setCtx c x).cells = s.cells := rfl
@[simp] theorem State.setCtx_stacks (c : Nat) (x : Ctx) : (s.setCtx c x).stks = s.stks := rfl
@[simp] theorem State.setCtx_tap (c : Nat) (x : Ctx) : (s.setCtx c x).tap = s.tap := rfl
@[simp] theorem State.setCtx_free (c : Nat) (x : Ctx) : (s.setCtx c x).free = s.free := rfl
@[simp] theorem State.setCtx_pending (c : Nat) (x : Ctx) : (s.setCtx c x).pending = s.pending := rfl

@[simp] theorem State.setCtx_ctx_self (c : Nat) (x : Ctx) : (s.setCtx c x).ctx c = x := tabGet_tabSet_self _ _ _ _

theorem State.setCtx_ctx_ne (c : Nat) (x : Ctx) (j : Nat) (h : j ≠ c) : (s.setCtx c x).ctx j = s.ctx j := tabGet_tabSet_ne _ _ _ _ _ h

theorem State.setCtx_ctx (c : Nat) (x : Ctx) (j : Nat) : (s.setCtx c x).ctx j = if j = c then x else s.ctx j := tabGet_tabSet _ _ _ _ _

@[simp] theorem State.setCtx_setCtx (c : Nat) (x : Ctx) : (s.setCtx c x).setCtx c y = s.setCtx c y := by
  simp only [State.setCtx, tabSet_tabSet]

@[simp] theorem State.setCtx_cell (c : Nat) (x : Ctx) (j : Nat) : (s.setCtx c x).cell j = s.cell j := rfl
@[simp] theorem State.setCtx_slice (c : Nat) (x : Ctx) (j : Nat) : (s.setCtx c x).slice j = s.slice j := rfl
@[simp] theorem State.setCtx_stack (c : Nat) (x : Ctx) (j : Nat) : (s.setCtx c x).stack j = s.stack j := rfl
@[simp] theorem State.setCtx_port (c : Nat) (x : Ctx) (j : Nat) : (s.setCtx c x).port j = s.port j := rfl
@[simp] theorem State.setCtx_stackPort (c : Nat) (x : Ctx) (j : Nat) : (s.setCtx c x).stackPort j = s.stackPort j := rfl
@[simp] theorem State.setCtx_region (c : Nat) (x : Ctx) (j : Nat) : (s.setCtx c x).region j = s.region j := rfl

/-! ## setCell -/

@[simp] theorem State.setCell_build (g : Nat) (x : Cell) : (s.setCell g x).build = s.build := rfl
@[simp] theorem State.setCell_fuses (g : Nat) (x : Cell) : (s.setCell g x).fuses = s.fuses := rfl
@[simp] theorem State.setCell_pwr (g : Nat) (x : Cell) : (s.setCell g x).pwr = s.pwr := rfl
@[simp] theorem State.setCell_glb (g : Nat) (x : Cell) : (s.setCell g x).glb = s.glb := rfl
@[simp] theorem State.setCell_clk (g : Nat) (x : Cell) : (s.setCell g x).clk = s.clk := rfl
@[simp] theorem State.setCell_time (g : Nat) (x : Cell) : (s.setCell g x).time = s.time := rfl
@[simp] theorem State.setCell_beat (g : Nat) (x : Cell) : (s.setCell g x).beat = s.beat := rfl
@[simp] theorem State.setCell_cfg (g : Nat) (x : Cell) : (s.setCell g x).cfg = s.cfg := rfl
@[simp] theorem State.setCell_xb (g : Nat) (x : Cell) : (s.setCell g x).xb = s.xb := rfl
@[simp] theorem State.setCell_fab (g : Nat) (x : Cell) : (s.setCell g x).fab = s.fab := rfl
@[simp] theorem State.setCell_slices (g : Nat) (x : Cell) : (s.setCell g x).slices = s.slices := rfl
@[simp] theorem State.setCell_ctxs (g : Nat) (x : Cell) : (s.setCell g x).ctxs = s.ctxs := rfl
@[simp] theorem State.setCell_stacks (g : Nat) (x : Cell) : (s.setCell g x).stks = s.stks := rfl
@[simp] theorem State.setCell_tap (g : Nat) (x : Cell) : (s.setCell g x).tap = s.tap := rfl
@[simp] theorem State.setCell_free (g : Nat) (x : Cell) : (s.setCell g x).free = s.free := rfl
@[simp] theorem State.setCell_pending (g : Nat) (x : Cell) : (s.setCell g x).pending = s.pending := rfl

@[simp] theorem State.setCell_cell_self (g : Nat) (x : Cell) : (s.setCell g x).cell g = x := tabGet_tabSet_self _ _ _ _

theorem State.setCell_cell_ne (g : Nat) (x : Cell) (j : Nat) (h : j ≠ g) : (s.setCell g x).cell j = s.cell j := tabGet_tabSet_ne _ _ _ _ _ h

theorem State.setCell_cell (g : Nat) (x : Cell) (j : Nat) : (s.setCell g x).cell j = if j = g then x else s.cell j := tabGet_tabSet _ _ _ _ _

@[simp] theorem State.setCell_setCell (g : Nat) (x : Cell) : (s.setCell g x).setCell g y = s.setCell g y := by
  simp only [State.setCell, tabSet_tabSet]

@[simp] theorem State.setCell_ctx (g : Nat) (x : Cell) (j : Nat) : (s.setCell g x).ctx j = s.ctx j := rfl
@[simp] theorem State.setCell_slice (g : Nat) (x : Cell) (j : Nat) : (s.setCell g x).slice j = s.slice j := rfl
@[simp] theorem State.setCell_stack (g : Nat) (x : Cell) (j : Nat) : (s.setCell g x).stack j = s.stack j := rfl
@[simp] theorem State.setCell_port (g : Nat) (x : Cell) (j : Nat) : (s.setCell g x).port j = s.port j := rfl
@[simp] theorem State.setCell_stackPort (g : Nat) (x : Cell) (j : Nat) : (s.setCell g x).stackPort j = s.stackPort j := rfl
@[simp] theorem State.setCell_region (g : Nat) (x : Cell) (j : Nat) : (s.setCell g x).region j = s.region j := rfl

/-! ## setSlice -/

@[simp] theorem State.setSlice_build (n : Nat) (x : Slice) : (s.setSlice n x).build = s.build := rfl
@[simp] theorem State.setSlice_fuses (n : Nat) (x : Slice) : (s.setSlice n x).fuses = s.fuses := rfl
@[simp] theorem State.setSlice_pwr (n : Nat) (x : Slice) : (s.setSlice n x).pwr = s.pwr := rfl
@[simp] theorem State.setSlice_glb (n : Nat) (x : Slice) : (s.setSlice n x).glb = s.glb := rfl
@[simp] theorem State.setSlice_clk (n : Nat) (x : Slice) : (s.setSlice n x).clk = s.clk := rfl
@[simp] theorem State.setSlice_time (n : Nat) (x : Slice) : (s.setSlice n x).time = s.time := rfl
@[simp] theorem State.setSlice_beat (n : Nat) (x : Slice) : (s.setSlice n x).beat = s.beat := rfl
@[simp] theorem State.setSlice_cfg (n : Nat) (x : Slice) : (s.setSlice n x).cfg = s.cfg := rfl
@[simp] theorem State.setSlice_xb (n : Nat) (x : Slice) : (s.setSlice n x).xb = s.xb := rfl
@[simp] theorem State.setSlice_fab (n : Nat) (x : Slice) : (s.setSlice n x).fab = s.fab := rfl
@[simp] theorem State.setSlice_cells (n : Nat) (x : Slice) : (s.setSlice n x).cells = s.cells := rfl
@[simp] theorem State.setSlice_ctxs (n : Nat) (x : Slice) : (s.setSlice n x).ctxs = s.ctxs := rfl
@[simp] theorem State.setSlice_stacks (n : Nat) (x : Slice) : (s.setSlice n x).stks = s.stks := rfl
@[simp] theorem State.setSlice_tap (n : Nat) (x : Slice) : (s.setSlice n x).tap = s.tap := rfl
@[simp] theorem State.setSlice_free (n : Nat) (x : Slice) : (s.setSlice n x).free = s.free := rfl
@[simp] theorem State.setSlice_pending (n : Nat) (x : Slice) : (s.setSlice n x).pending = s.pending := rfl

@[simp] theorem State.setSlice_slice_self (n : Nat) (x : Slice) : (s.setSlice n x).slice n = x := tabGet_tabSet_self _ _ _ _

theorem State.setSlice_slice_ne (n : Nat) (x : Slice) (j : Nat) (h : j ≠ n) : (s.setSlice n x).slice j = s.slice j := tabGet_tabSet_ne _ _ _ _ _ h

theorem State.setSlice_slice (n : Nat) (x : Slice) (j : Nat) : (s.setSlice n x).slice j = if j = n then x else s.slice j := tabGet_tabSet _ _ _ _ _

@[simp] theorem State.setSlice_setSlice (n : Nat) (x : Slice) : (s.setSlice n x).setSlice n y = s.setSlice n y := by
  simp only [State.setSlice, tabSet_tabSet]

@[simp] theorem State.setSlice_ctx (n : Nat) (x : Slice) (j : Nat) : (s.setSlice n x).ctx j = s.ctx j := rfl
@[simp] theorem State.setSlice_cell (n : Nat) (x : Slice) (j : Nat) : (s.setSlice n x).cell j = s.cell j := rfl
@[simp] theorem State.setSlice_stack (n : Nat) (x : Slice) (j : Nat) : (s.setSlice n x).stack j = s.stack j := rfl
@[simp] theorem State.setSlice_port (n : Nat) (x : Slice) (j : Nat) : (s.setSlice n x).port j = s.port j := rfl
@[simp] theorem State.setSlice_stackPort (n : Nat) (x : Slice) (j : Nat) : (s.setSlice n x).stackPort j = s.stackPort j := rfl
@[simp] theorem State.setSlice_region (n : Nat) (x : Slice) (j : Nat) : (s.setSlice n x).region j = s.region j := rfl

/-! ## setStack -/

@[simp] theorem State.setStack_build (k : Nat) (x : Mem) : (s.setStack k x).build = s.build := rfl
@[simp] theorem State.setStack_fuses (k : Nat) (x : Mem) : (s.setStack k x).fuses = s.fuses := rfl
@[simp] theorem State.setStack_pwr (k : Nat) (x : Mem) : (s.setStack k x).pwr = s.pwr := rfl
@[simp] theorem State.setStack_glb (k : Nat) (x : Mem) : (s.setStack k x).glb = s.glb := rfl
@[simp] theorem State.setStack_clk (k : Nat) (x : Mem) : (s.setStack k x).clk = s.clk := rfl
@[simp] theorem State.setStack_time (k : Nat) (x : Mem) : (s.setStack k x).time = s.time := rfl
@[simp] theorem State.setStack_beat (k : Nat) (x : Mem) : (s.setStack k x).beat = s.beat := rfl
@[simp] theorem State.setStack_cfg (k : Nat) (x : Mem) : (s.setStack k x).cfg = s.cfg := rfl
@[simp] theorem State.setStack_xb (k : Nat) (x : Mem) : (s.setStack k x).xb = s.xb := rfl
@[simp] theorem State.setStack_fab (k : Nat) (x : Mem) : (s.setStack k x).fab = s.fab := rfl
@[simp] theorem State.setStack_slices (k : Nat) (x : Mem) : (s.setStack k x).slices = s.slices := rfl
@[simp] theorem State.setStack_cells (k : Nat) (x : Mem) : (s.setStack k x).cells = s.cells := rfl
@[simp] theorem State.setStack_ctxs (k : Nat) (x : Mem) : (s.setStack k x).ctxs = s.ctxs := rfl
@[simp] theorem State.setStack_tap (k : Nat) (x : Mem) : (s.setStack k x).tap = s.tap := rfl
@[simp] theorem State.setStack_free (k : Nat) (x : Mem) : (s.setStack k x).free = s.free := rfl
@[simp] theorem State.setStack_pending (k : Nat) (x : Mem) : (s.setStack k x).pending = s.pending := rfl

@[simp] theorem State.setStack_stack_self (k : Nat) (x : Mem) : (s.setStack k x).stack k = x := tabGet_tabSet_self _ _ _ _

theorem State.setStack_stack_ne (k : Nat) (x : Mem) (j : Nat) (h : j ≠ k) : (s.setStack k x).stack j = s.stack j := tabGet_tabSet_ne _ _ _ _ _ h

theorem State.setStack_stack (k : Nat) (x : Mem) (j : Nat) : (s.setStack k x).stack j = if j = k then x else s.stack j := tabGet_tabSet _ _ _ _ _

@[simp] theorem State.setStack_setStack (k : Nat) (x : Mem) : (s.setStack k x).setStack k y = s.setStack k y := by
  simp only [State.setStack, tabSet_tabSet]

@[simp] theorem State.setStack_ctx (k : Nat) (x : Mem) (j : Nat) : (s.setStack k x).ctx j = s.ctx j := rfl
@[simp] theorem State.setStack_cell (k : Nat) (x : Mem) (j : Nat) : (s.setStack k x).cell j = s.cell j := rfl
@[simp] theorem State.setStack_slice (k : Nat) (x : Mem) (j : Nat) : (s.setStack k x).slice j = s.slice j := rfl
@[simp] theorem State.setStack_port (k : Nat) (x : Mem) (j : Nat) : (s.setStack k x).port j = s.port j := rfl
@[simp] theorem State.setStack_stackPort (k : Nat) (x : Mem) (j : Nat) : (s.setStack k x).stackPort j = s.stackPort j := rfl
@[simp] theorem State.setStack_region (k : Nat) (x : Mem) (j : Nat) : (s.setStack k x).region j = s.region j := rfl

/-! ## setPort -/

@[simp] theorem State.setPort_build (p : Nat) (x : Port) : (s.setPort p x).build = s.build := rfl
@[simp] theorem State.setPort_fuses (p : Nat) (x : Port) : (s.setPort p x).fuses = s.fuses := rfl
@[simp] theorem State.setPort_pwr (p : Nat) (x : Port) : (s.setPort p x).pwr = s.pwr := rfl
@[simp] theorem State.setPort_glb (p : Nat) (x : Port) : (s.setPort p x).glb = s.glb := rfl
@[simp] theorem State.setPort_clk (p : Nat) (x : Port) : (s.setPort p x).clk = s.clk := rfl
@[simp] theorem State.setPort_time (p : Nat) (x : Port) : (s.setPort p x).time = s.time := rfl
@[simp] theorem State.setPort_beat (p : Nat) (x : Port) : (s.setPort p x).beat = s.beat := rfl
@[simp] theorem State.setPort_cfg (p : Nat) (x : Port) : (s.setPort p x).cfg = s.cfg := rfl
@[simp] theorem State.setPort_xb (p : Nat) (x : Port) : (s.setPort p x).xb = s.xb := rfl
@[simp] theorem State.setPort_slices (p : Nat) (x : Port) : (s.setPort p x).slices = s.slices := rfl
@[simp] theorem State.setPort_cells (p : Nat) (x : Port) : (s.setPort p x).cells = s.cells := rfl
@[simp] theorem State.setPort_ctxs (p : Nat) (x : Port) : (s.setPort p x).ctxs = s.ctxs := rfl
@[simp] theorem State.setPort_stacks (p : Nat) (x : Port) : (s.setPort p x).stks = s.stks := rfl
@[simp] theorem State.setPort_tap (p : Nat) (x : Port) : (s.setPort p x).tap = s.tap := rfl
@[simp] theorem State.setPort_free (p : Nat) (x : Port) : (s.setPort p x).free = s.free := rfl
@[simp] theorem State.setPort_pending (p : Nat) (x : Port) : (s.setPort p x).pending = s.pending := rfl

@[simp] theorem State.setPort_port_self (p : Nat) (x : Port) : (s.setPort p x).port p = x := tabGet_tabSet_self _ _ _ _

theorem State.setPort_port_ne (p : Nat) (x : Port) (j : Nat) (h : j ≠ p) : (s.setPort p x).port j = s.port j := tabGet_tabSet_ne _ _ _ _ _ h

theorem State.setPort_port (p : Nat) (x : Port) (j : Nat) : (s.setPort p x).port j = if j = p then x else s.port j := tabGet_tabSet _ _ _ _ _

@[simp] theorem State.setPort_setPort (p : Nat) (x : Port) : (s.setPort p x).setPort p y = s.setPort p y := by
  simp only [State.setPort, tabSet_tabSet]

@[simp] theorem State.setPort_ctx (p : Nat) (x : Port) (j : Nat) : (s.setPort p x).ctx j = s.ctx j := rfl
@[simp] theorem State.setPort_cell (p : Nat) (x : Port) (j : Nat) : (s.setPort p x).cell j = s.cell j := rfl
@[simp] theorem State.setPort_slice (p : Nat) (x : Port) (j : Nat) : (s.setPort p x).slice j = s.slice j := rfl
@[simp] theorem State.setPort_stack (p : Nat) (x : Port) (j : Nat) : (s.setPort p x).stack j = s.stack j := rfl
@[simp] theorem State.setPort_stackPort (p : Nat) (x : Port) (j : Nat) : (s.setPort p x).stackPort j = s.stackPort j := rfl
@[simp] theorem State.setPort_region (p : Nat) (x : Port) (j : Nat) : (s.setPort p x).region j = s.region j := rfl

/-! ## setStackPort -/

@[simp] theorem State.setStackPort_build (k : Nat) (x : StackPort) : (s.setStackPort k x).build = s.build := rfl
@[simp] theorem State.setStackPort_fuses (k : Nat) (x : StackPort) : (s.setStackPort k x).fuses = s.fuses := rfl
@[simp] theorem State.setStackPort_pwr (k : Nat) (x : StackPort) : (s.setStackPort k x).pwr = s.pwr := rfl
@[simp] theorem State.setStackPort_glb (k : Nat) (x : StackPort) : (s.setStackPort k x).glb = s.glb := rfl
@[simp] theorem State.setStackPort_clk (k : Nat) (x : StackPort) : (s.setStackPort k x).clk = s.clk := rfl
@[simp] theorem State.setStackPort_time (k : Nat) (x : StackPort) : (s.setStackPort k x).time = s.time := rfl
@[simp] theorem State.setStackPort_beat (k : Nat) (x : StackPort) : (s.setStackPort k x).beat = s.beat := rfl
@[simp] theorem State.setStackPort_cfg (k : Nat) (x : StackPort) : (s.setStackPort k x).cfg = s.cfg := rfl
@[simp] theorem State.setStackPort_fab (k : Nat) (x : StackPort) : (s.setStackPort k x).fab = s.fab := rfl
@[simp] theorem State.setStackPort_slices (k : Nat) (x : StackPort) : (s.setStackPort k x).slices = s.slices := rfl
@[simp] theorem State.setStackPort_cells (k : Nat) (x : StackPort) : (s.setStackPort k x).cells = s.cells := rfl
@[simp] theorem State.setStackPort_ctxs (k : Nat) (x : StackPort) : (s.setStackPort k x).ctxs = s.ctxs := rfl
@[simp] theorem State.setStackPort_stacks (k : Nat) (x : StackPort) : (s.setStackPort k x).stks = s.stks := rfl
@[simp] theorem State.setStackPort_tap (k : Nat) (x : StackPort) : (s.setStackPort k x).tap = s.tap := rfl
@[simp] theorem State.setStackPort_free (k : Nat) (x : StackPort) : (s.setStackPort k x).free = s.free := rfl
@[simp] theorem State.setStackPort_pending (k : Nat) (x : StackPort) : (s.setStackPort k x).pending = s.pending := rfl

@[simp] theorem State.setStackPort_stackPort_self (k : Nat) (x : StackPort) : (s.setStackPort k x).stackPort k = x := tabGet_tabSet_self _ _ _ _

theorem State.setStackPort_stackPort_ne (k : Nat) (x : StackPort) (j : Nat) (h : j ≠ k) : (s.setStackPort k x).stackPort j = s.stackPort j := tabGet_tabSet_ne _ _ _ _ _ h

theorem State.setStackPort_stackPort (k : Nat) (x : StackPort) (j : Nat) : (s.setStackPort k x).stackPort j = if j = k then x else s.stackPort j := tabGet_tabSet _ _ _ _ _

@[simp] theorem State.setStackPort_setStackPort (k : Nat) (x : StackPort) : (s.setStackPort k x).setStackPort k y = s.setStackPort k y := by
  simp only [State.setStackPort, tabSet_tabSet]

@[simp] theorem State.setStackPort_ctx (k : Nat) (x : StackPort) (j : Nat) : (s.setStackPort k x).ctx j = s.ctx j := rfl
@[simp] theorem State.setStackPort_cell (k : Nat) (x : StackPort) (j : Nat) : (s.setStackPort k x).cell j = s.cell j := rfl
@[simp] theorem State.setStackPort_slice (k : Nat) (x : StackPort) (j : Nat) : (s.setStackPort k x).slice j = s.slice j := rfl
@[simp] theorem State.setStackPort_stack (k : Nat) (x : StackPort) (j : Nat) : (s.setStackPort k x).stack j = s.stack j := rfl
@[simp] theorem State.setStackPort_port (k : Nat) (x : StackPort) (j : Nat) : (s.setStackPort k x).port j = s.port j := rfl
@[simp] theorem State.setStackPort_region (k : Nat) (x : StackPort) (j : Nat) : (s.setStackPort k x).region j = s.region j := rfl

/-! ## setRegion -/

@[simp] theorem State.setRegion_build (r : Nat) (x : Region) : (s.setRegion r x).build = s.build := rfl
@[simp] theorem State.setRegion_fuses (r : Nat) (x : Region) : (s.setRegion r x).fuses = s.fuses := rfl
@[simp] theorem State.setRegion_pwr (r : Nat) (x : Region) : (s.setRegion r x).pwr = s.pwr := rfl
@[simp] theorem State.setRegion_glb (r : Nat) (x : Region) : (s.setRegion r x).glb = s.glb := rfl
@[simp] theorem State.setRegion_clk (r : Nat) (x : Region) : (s.setRegion r x).clk = s.clk := rfl
@[simp] theorem State.setRegion_time (r : Nat) (x : Region) : (s.setRegion r x).time = s.time := rfl
@[simp] theorem State.setRegion_beat (r : Nat) (x : Region) : (s.setRegion r x).beat = s.beat := rfl
@[simp] theorem State.setRegion_xb (r : Nat) (x : Region) : (s.setRegion r x).xb = s.xb := rfl
@[simp] theorem State.setRegion_fab (r : Nat) (x : Region) : (s.setRegion r x).fab = s.fab := rfl
@[simp] theorem State.setRegion_slices (r : Nat) (x : Region) : (s.setRegion r x).slices = s.slices := rfl
@[simp] theorem State.setRegion_cells (r : Nat) (x : Region) : (s.setRegion r x).cells = s.cells := rfl
@[simp] theorem State.setRegion_ctxs (r : Nat) (x : Region) : (s.setRegion r x).ctxs = s.ctxs := rfl
@[simp] theorem State.setRegion_stacks (r : Nat) (x : Region) : (s.setRegion r x).stks = s.stks := rfl
@[simp] theorem State.setRegion_tap (r : Nat) (x : Region) : (s.setRegion r x).tap = s.tap := rfl
@[simp] theorem State.setRegion_free (r : Nat) (x : Region) : (s.setRegion r x).free = s.free := rfl
@[simp] theorem State.setRegion_pending (r : Nat) (x : Region) : (s.setRegion r x).pending = s.pending := rfl

@[simp] theorem State.setRegion_region_self (r : Nat) (x : Region) : (s.setRegion r x).region r = x := tabGet_tabSet_self _ _ _ _

theorem State.setRegion_region_ne (r : Nat) (x : Region) (j : Nat) (h : j ≠ r) : (s.setRegion r x).region j = s.region j := tabGet_tabSet_ne _ _ _ _ _ h

theorem State.setRegion_region (r : Nat) (x : Region) (j : Nat) : (s.setRegion r x).region j = if j = r then x else s.region j := tabGet_tabSet _ _ _ _ _

@[simp] theorem State.setRegion_setRegion (r : Nat) (x : Region) : (s.setRegion r x).setRegion r y = s.setRegion r y := by
  simp only [State.setRegion, tabSet_tabSet]

@[simp] theorem State.setRegion_ctx (r : Nat) (x : Region) (j : Nat) : (s.setRegion r x).ctx j = s.ctx j := rfl
@[simp] theorem State.setRegion_cell (r : Nat) (x : Region) (j : Nat) : (s.setRegion r x).cell j = s.cell j := rfl
@[simp] theorem State.setRegion_slice (r : Nat) (x : Region) (j : Nat) : (s.setRegion r x).slice j = s.slice j := rfl
@[simp] theorem State.setRegion_stack (r : Nat) (x : Region) (j : Nat) : (s.setRegion r x).stack j = s.stack j := rfl
@[simp] theorem State.setRegion_port (r : Nat) (x : Region) (j : Nat) : (s.setRegion r x).port j = s.port j := rfl
@[simp] theorem State.setRegion_stackPort (r : Nat) (x : Region) (j : Nat) : (s.setRegion r x).stackPort j = s.stackPort j := rfl

/-! ## bump -/

@[simp] theorem State.bump_build (n : Nat) : (s.bump n).build = s.build := rfl
@[simp] theorem State.bump_fuses (n : Nat) : (s.bump n).fuses = s.fuses := rfl
@[simp] theorem State.bump_pwr (n : Nat) : (s.bump n).pwr = s.pwr := rfl
@[simp] theorem State.bump_glb (n : Nat) : (s.bump n).glb = s.glb := rfl
@[simp] theorem State.bump_clk (n : Nat) : (s.bump n).clk = s.clk := rfl
@[simp] theorem State.bump_time (n : Nat) : (s.bump n).time = s.time := rfl
@[simp] theorem State.bump_beat (n : Nat) : (s.bump n).beat = s.beat := rfl
@[simp] theorem State.bump_cfg (n : Nat) : (s.bump n).cfg = s.cfg := rfl
@[simp] theorem State.bump_xb (n : Nat) : (s.bump n).xb = s.xb := rfl
@[simp] theorem State.bump_fab (n : Nat) : (s.bump n).fab = s.fab := rfl
@[simp] theorem State.bump_slices (n : Nat) : (s.bump n).slices = s.slices := rfl
@[simp] theorem State.bump_cells (n : Nat) : (s.bump n).cells = s.cells := rfl
@[simp] theorem State.bump_ctxs (n : Nat) : (s.bump n).ctxs = s.ctxs := rfl
@[simp] theorem State.bump_stacks (n : Nat) : (s.bump n).stks = s.stks := rfl
@[simp] theorem State.bump_tap (n : Nat) : (s.bump n).tap = s.tap := rfl
@[simp] theorem State.bump_pending (n : Nat) : (s.bump n).pending = s.pending := rfl

@[simp] theorem State.bump_ctx (n : Nat) (j : Nat) : (s.bump n).ctx j = s.ctx j := rfl
@[simp] theorem State.bump_cell (n : Nat) (j : Nat) : (s.bump n).cell j = s.cell j := rfl
@[simp] theorem State.bump_slice (n : Nat) (j : Nat) : (s.bump n).slice j = s.slice j := rfl
@[simp] theorem State.bump_stack (n : Nat) (j : Nat) : (s.bump n).stack j = s.stack j := rfl
@[simp] theorem State.bump_port (n : Nat) (j : Nat) : (s.bump n).port j = s.port j := rfl
@[simp] theorem State.bump_stackPort (n : Nat) (j : Nat) : (s.bump n).stackPort j = s.stackPort j := rfl
@[simp] theorem State.bump_region (n : Nat) (j : Nat) : (s.bump n).region j = s.region j := rfl

/-! ## Within cells -/

@[simp] theorem Cell.setQueue_queue_self (x : Cell) (q : Nat) (y : Queue) : (x.setQueue q y).queue q = y := tabGet_tabSet_self _ _ _ _
theorem Cell.setQueue_queue_ne (x : Cell) (q j : Nat) (y : Queue) (h : j ≠ q) : (x.setQueue q y).queue j = x.queue j :=
  tabGet_tabSet_ne _ _ _ _ _ h
@[simp] theorem Cell.setQueue_owner (x : Cell) (q : Nat) (y : Queue) : (x.setQueue q y).owner = x.owner := rfl
@[simp] theorem Cell.setQueue_mem (x : Cell) (q : Nat) (y : Queue) : (x.setQueue q y).mem = x.mem := rfl
@[simp] theorem Cell.setQueue_tile (x : Cell) (q j : Nat) (y : Queue) : (x.setQueue q y).tile j = x.tile j := rfl
@[simp] theorem Cell.setQueue_chan (x : Cell) (q j : Nat) (y : Queue) : (x.setQueue q y).chan j = x.chan j := rfl
@[simp] theorem Cell.setChan_chan_self (x : Cell) (q : Nat) (y : Chan) : (x.setChan q y).chan q = y := tabGet_tabSet_self _ _ _ _
theorem Cell.setChan_chan_ne (x : Cell) (q j : Nat) (y : Chan) (h : j ≠ q) : (x.setChan q y).chan j = x.chan j :=
  tabGet_tabSet_ne _ _ _ _ _ h
@[simp] theorem Cell.setChan_mem (x : Cell) (q : Nat) (y : Chan) : (x.setChan q y).mem = x.mem := rfl
@[simp] theorem Cell.setChan_owner (x : Cell) (q : Nat) (y : Chan) : (x.setChan q y).owner = x.owner := rfl
@[simp] theorem Cell.setChan_queue (x : Cell) (q j : Nat) (y : Chan) : (x.setChan q y).queue j = x.queue j := rfl
@[simp] theorem Cell.setTile_tile_self (x : Cell) (k : Nat) (y : TileRec) : (x.setTile k y).tile k = y := tabGet_tabSet_self _ _ _ _
theorem Cell.setTile_tile_ne (x : Cell) (k j : Nat) (y : TileRec) (h : j ≠ k) : (x.setTile k y).tile j = x.tile j :=
  tabGet_tabSet_ne _ _ _ _ _ h
@[simp] theorem Cell.setTile_mem (x : Cell) (k : Nat) (y : TileRec) : (x.setTile k y).mem = x.mem := rfl
@[simp] theorem Cell.setTile_owner (x : Cell) (k : Nat) (y : TileRec) : (x.setTile k y).owner = x.owner := rfl

end Sys2Proof.Machine
end

