-- ==== Sys2Proof/Laws/Ops.lean ====
section
/-!
SUPPORT. What the shared operations can do, said once: interrupts and events touch the global page alone, window writes touch stack
memory alone and keep its canonical form, a request changes its own stack port and keeps its ordering rule.
-/
namespace Sys2Proof.Machine

/-! ## Interrupts and events -/

/-- A message enters the queue or becomes owed; nothing else changes. -/
theorem State.sendMsg_spec (s : State) (v : Nat) : ∃ q o, s.sendMsg v = { s with glb := { s.glb with msiQ := q, owed := o } } := by
  unfold State.sendMsg
  split
  · exact ⟨_, _, rfl⟩
  · split
    · exact ⟨_, _, rfl⟩
    · exact ⟨_, _, rfl⟩

/-- The pending bit of a global vector is set; apart from messages nothing else changes. -/
theorem State.pendGlb_spec (s : State) (w : Nat) :
    ∃ q o, s.pendGlb w = { s with glb := { s.glb with irq := irqPend s.glb.irq w, msiQ := q, owed := o } } := by
  unfold State.pendGlb
  simp only
  split
  · obtain ⟨q, o, h⟩ := State.sendMsg_spec { s with glb := { s.glb with irq := irqPend s.glb.irq w } } (128 + w)
    exact ⟨q, o, h⟩
  · exact ⟨_, _, rfl⟩

/-- The pending bit of a context's vector is set; apart from messages nothing else changes. -/
theorem State.pendCtx_spec (s : State) (c w : Nat) :
    ∃ q o, s.pendCtx c w = { s.setCtx c { s.ctx c with irq := irqPend (s.ctx c).irq w } with
      glb := { s.glb with msiQ := q, owed := o } } := by
  unfold State.pendCtx
  simp only [State.updCtx_eq]
  split
  · obtain ⟨q, o, h⟩ := State.sendMsg_spec (s.setCtx c { s.ctx c with irq := irqPend (s.ctx c).irq w }) (2 * c + w)
    exact ⟨q, o, h⟩
  · exact ⟨_, _, rfl⟩

/-- SERVICE. -/
theorem State.service_spec (s : State) :
    ∃ q o, s.service = { s with glb := { s.glb with irq := irqPend s.glb.irq 1, msiQ := q, owed := o } } := s.pendGlb_spec 1

theorem State.globalFault_eq (s : State) (code source index detail : Nat) :
    ∃ r, s.globalFault code source index detail = State.pendGlb { s with glb := { s.glb with fault := r } } 0 := ⟨_, rfl⟩

/-- A unit-level event is recorded and GLOBAL is pending; nothing outside the global page changes (R359). -/
theorem State.globalFault_spec (s : State) (code source index detail : Nat) :
    ∃ g, s.globalFault code source index detail = { s with glb := g } ∧ g.irq = irqPend s.glb.irq 0 := by
  obtain ⟨r, hr⟩ := s.globalFault_eq code source index detail
  obtain ⟨q, o, h⟩ := State.pendGlb_spec { s with glb := { s.glb with fault := r } } 0
  exact ⟨_, hr.trans h, rfl⟩

/-! ## Access through the control port -/

theorem State.served_spec (s : State) (f : State → State) :
    (s.serving = true ∧ s.served f = f s) ∨ (s.serving = false ∧ s.served f = s) := by
  unfold State.served
  split
  · exact Or.inl ⟨‹_›, rfl⟩
  · exact Or.inr ⟨Bool.eq_false_iff.mpr ‹_›, rfl⟩

/-- With the pins held by EXTEST or CLAMP nothing comes in or goes out; otherwise the operation runs. -/
theorem State.onPins_spec (s : State) (f : State → State) :
    (s.tap.pinsHeld = true ∧ s.onPins f = s) ∨ (s.tap.pinsHeld = false ∧ s.onPins f = f s) := by
  unfold State.onPins
  split
  · exact Or.inl ⟨‹_›, rfl⟩
  · exact Or.inr ⟨Bool.eq_false_iff.mpr ‹_›, rfl⟩

/-! ## Memory -/

theorem State.stack_wf (s : State) (h : s.MemWf) (k : Nat) : (s.stack k).wf = true := by
  rcases tabGet_mem Mem.blank s.stks k with h1 | h1
  · simp only [State.stack, h1, Mem.wf_blank]
  · exact h.1 _ h1

theorem State.cell_wf (s : State) (h : s.MemWf) (g : Nat) : (s.cell g).mem.wf = true := by
  rcases tabGet_mem Cell.reset s.cells g with h1 | h1
  · simp only [State.cell, h1]
    rfl
  · exact (h.2 _ h1).1

theorem State.cell_opFile_wf (s : State) (h : s.MemWf) (g : Nat) : (s.cell g).opFile.wf = true := by
  rcases tabGet_mem Cell.reset s.cells g with h1 | h1
  · simp only [State.cell, h1]
    rfl
  · exact (h.2 _ h1).2

theorem State.memWf_setStack (s : State) (k : Nat) (m : Mem) (h : s.MemWf) (hm : m.wf = true) : (s.setStack k m).MemWf := by
  refine ⟨fun e he => ?_, h.2⟩
  rcases mem_tabSet he with rfl | he
  · exact hm
  · exact h.1 e he

theorem State.memWf_setCell (s : State) (g : Nat) (x : Cell) (h : s.MemWf) (hx : x.mem.wf = true)
    (ho : x.opFile.wf = true) : (s.setCell g x).MemWf := by
  refine ⟨h.1, fun e he => ?_⟩
  rcases mem_tabSet he with rfl | he
  · exact ⟨hx, ho⟩
  · exact h.2 e he

/-- A state with the same stacks and cells keeps the form. -/
theorem State.memWf_congr {s t : State} (h : s.MemWf) (h1 : t.stks = s.stks) (h2 : t.cells = s.cells) : t.MemWf :=
  ⟨h1 ▸ h.1, h2 ▸ h.2⟩

/-- The memory right after reset is in canonical form. -/
theorem reset_memWf : State.reset.MemWf := by
  constructor <;> intro e he <;> cases he

/-- One byte of a window goes to one address of one stack. -/
theorem State.poke_spec (s : State) (e : WinEntry) (region off : Nat) (b : Byte) :
    s.poke e region off b = s.setStack (e.xlate region off).1 ((s.stack (e.xlate region off).1).set (e.xlate region off).2 b) := rfl

theorem State.memWf_poke (s : State) (e : WinEntry) (region off : Nat) (b : Byte) (h : s.MemWf) : (s.poke e region off b).MemWf :=
  s.memWf_setStack _ _ h (Mem.wf_set _ _ _ (s.stack_wf h _))

/-- A window write changes stack memory alone. -/
theorem State.winWrite_spec (bs : List Byte) (s : State) (e : WinEntry) (region off : Nat) :
    ∃ m, s.winWrite e region off bs = { s with stks := m } := by
  induction bs generalizing s off with
  | nil => exact ⟨_, rfl⟩
  | cons b bs ih =>
    obtain ⟨m, h⟩ := ih (s.poke e region off b) (off + 1)
    exact ⟨m, h⟩

theorem State.memWf_winWrite (bs : List Byte) (s : State) (e : WinEntry) (region off : Nat) (h : s.MemWf) :
    (s.winWrite e region off bs).MemWf := by
  induction bs generalizing s off with
  | nil => exact h
  | cons b bs ih => exact ih _ _ (s.memWf_poke _ _ _ _ h)

/-- A byte that no position of the write is translated to reads as before. -/
theorem State.winWrite_out (bs : List Byte) (s : State) (e : WinEntry) (region off k a : Nat)
    (h : ∀ j, j < bs.length → e.xlate region (off + j) ≠ (k, a)) :
    ((s.winWrite e region off bs).stack k).get a = (s.stack k).get a := by
  induction bs generalizing s off with
  | nil => rfl
  | cons b bs ih =>
    have h1 := ih (s.poke e region off b) (off + 1) (fun j hj => by
      have := h (j + 1) (by simpa using hj)
      rwa [show off + (j + 1) = off + 1 + j from by omega] at this)
    rw [State.winWrite, h1, State.poke_spec]
    have h0 := h 0 (by simp)
    rw [Nat.add_zero] at h0
    by_cases hk : k = (e.xlate region off).1
    · subst hk
      rw [State.setStack_stack_self, Mem.get_set_ne]
      intro ha
      exact h0 (by rw [ha])
    · rw [State.setStack_stack_ne _ _ _ _ hk]

/-- Where no two positions meet, a window write reads back. -/
theorem State.winRead_winWrite (bs : List Byte) (s : State) (e : WinEntry) (region off : Nat)
    (h : ∀ i j, i < j → j < bs.length → e.xlate region (off + i) ≠ e.xlate region (off + j)) :
    (s.winWrite e region off bs).winRead e region off bs.length = bs := by
  apply List.ext_getElem
  · simp [State.winRead]
  · intro i h1 h2
    simp only [State.winRead, List.getElem_map, List.getElem_range, State.peek]
    clear h1
    induction bs generalizing s off i with
    | nil => simp at h2
    | cons b bs ih =>
      rw [State.winWrite]
      cases i with
      | zero =>
        rw [State.winWrite_out _ _ _ _ _ _ _ (fun j hj => ?_)]
        · simp only [Nat.add_zero, State.poke_spec, State.setStack_stack_self, Mem.get_set_self, List.getElem_cons_zero]
        · have := h 0 (j + 1) (by omega) (by simpa using hj)
          rw [Nat.add_zero] at this ⊢
          rw [show off + 1 + j = off + (j + 1) from by omega]
          exact fun hh => this hh.symm
      | succ i =>
        have := ih (s.poke e region off b) (off + 1) (fun a c hac hc => by
          have := h (a + 1) (c + 1) (by omega) (by simpa using hc)
          rwa [show off + (a + 1) = off + 1 + a from by omega, show off + (c + 1) = off + 1 + c from by omega] at this) i
          (by simpa using h2)
        rw [show off + (i + 1) = off + 1 + i from by omega, this, List.getElem_cons_succ]

/-! ## Stack requests -/

/-- What the ordering rule says of two requests of one port, the earlier first. -/
def Req.Apart (a b : Req) : Prop :=
  (b.tag.isSome = true → a.clash b = false) ∧ (a.write = b.write → a.tag.isSome = true → a.tag ≠ b.tag)

/-- A free tag is none that another request of the channel holds. -/
theorem freeTag_fresh (l : List Req) (write : Bool) (t : Nat) (h : freeTag l write = some t) :
    ∀ r ∈ l, r.write = write → r.tag ≠ some t := by
  intro r hr hw ht
  have h1 := List.find?_some h
  simp only [Bool.not_eq_true', List.contains_eq_mem, decide_eq_false_iff_not] at h1
  apply h1
  exact List.mem_filterMap.mpr ⟨r, hr, by simp [hw, ht]⟩

theorem promote_apart (rest done : List Req) (h : (done ++ rest).Pairwise Req.Apart) :
    (promote done rest).Pairwise Req.Apart := by
  induction rest generalizing done with
  | nil => simpa [promote] using h
  | cons r rest ih =>
    have h' : ((done ++ [r]) ++ rest).Pairwise Req.Apart := by simpa using h
    cases ht : r.tag with
    | some t => simpa [promote, ht] using ih _ h'
    | none =>
      by_cases hc : done.any (fun a => a.clash r) = true
      · simpa [promote, ht, hc] using ih _ h'
      · rw [promote]
        simp only [ht, hc]
        apply ih
        generalize hf : freeTag (done ++ rest) r.write = t
        rw [List.append_assoc, List.singleton_append]
        rw [List.pairwise_append, List.pairwise_cons] at h ⊢
        refine ⟨h.1, ⟨fun b hb => ⟨(h.2.1.1 b hb).1, fun hw hs => ?_⟩, h.2.1.2⟩, fun a ha b hb => ?_⟩
        · cases t with
          | none => simp at hs
          | some t => exact fun he => freeTag_fresh _ _ _ hf b (by simp [hb]) hw.symm he.symm
        · rcases List.mem_cons.mp hb with rfl | hb
          · refine ⟨fun _ => ?_, fun hw hs he => ?_⟩
            · exact Bool.eq_false_iff.mpr (List.any_eq_false.mp (Bool.eq_false_iff.mpr hc) a ha)
            · cases t with
              | none => rw [he] at hs; simp at hs
              | some t => exact freeTag_fresh _ _ _ hf a (by simp [ha]) hw he
          · exact h.2.2 a ha b (List.mem_cons_of_mem _ hb)

/-- Promotion leaves what precedes it as it is. -/
theorem promote_prefix (rest done : List Req) : ∃ l, promote done rest = done ++ l := by
  induction rest generalizing done with
  | nil => exact ⟨[], by simp [promote]⟩
  | cons r rest ih =>
    unfold promote
    split
    · obtain ⟨l, h⟩ := ih (done ++ [r])
      exact ⟨r :: l, by rw [h]; simp⟩
    · split
      · obtain ⟨l, h⟩ := ih (done ++ [r])
        exact ⟨r :: l, by rw [h]; simp⟩
      · obtain ⟨l, h⟩ := ih (done ++ [{ r with tag := freeTag (done ++ rest) r.write }])
        exact ⟨{ r with tag := freeTag (done ++ rest) r.write } :: l, by rw [h]; simp⟩

/-- A port that obeys its ordering rule still does once what may go has gone. -/
theorem StackPort.settle_ordered (p : StackPort) (h : p.Ordered) : p.settle.Ordered := by
  obtain ⟨l, hl⟩ := promote_prefix p.reqs p.late
  have h1 := promote_apart p.reqs p.late h
  have h2 : p.late ++ (promote p.late p.reqs).drop p.late.length = promote p.late p.reqs := by rw [hl]; simp
  show (p.late ++ (promote p.late p.reqs).drop p.late.length).Pairwise Req.Apart
  rw [h2]
  exact h1

/-- Fewer requests obey it too. -/
theorem StackPort.ordered_sublist {p q : StackPort} (h : p.Ordered) (k : (q.late ++ q.reqs).Sublist (p.late ++ p.reqs)) :
    q.Ordered := List.Pairwise.sublist k h

/-- A request that enters waits at the end of the port. -/
theorem StackPort.ordered_append (p q : StackPort) (r : Req) (h : p.Ordered) (hr : r.tag = none) (hl : q.late = p.late)
    (hq : q.reqs = p.reqs ++ [r]) : q.Ordered := by
  unfold StackPort.Ordered
  rw [hl, hq, ← List.append_assoc]
  refine List.pairwise_append.mpr ⟨h, List.pairwise_singleton _ _, fun a _ b hb => ?_⟩
  rw [List.mem_singleton.mp hb]
  refine ⟨fun h1 => by simp [hr] at h1, fun _ h1 => ?_⟩
  rw [hr]
  exact fun h2 => by simp [h2] at h1

/-- Two ports with the same requests obey the rule alike. -/
theorem StackPort.ordered_congr {p q : StackPort} (h : p.Ordered) (h1 : q.late = p.late) (h2 : q.reqs = p.reqs) : q.Ordered := by
  unfold StackPort.Ordered
  rw [h1, h2]
  exact h

theorem State.portsOrdered_setStackPort (s : State) (k : Nat) (x : StackPort) (h : s.PortsOrdered) (hx : x.Ordered) :
    (s.setStackPort k x).PortsOrdered := by
  intro j
  rw [State.setStackPort_stackPort]
  split
  · exact hx
  · exact h j

/-- What traffic in Crossway changes: waiting and outstanding pieces, the numbering of requests and the turns of the slices' ports. -/
def State.OnlyTraffic (s t : State) : Prop :=
  ∃ p n u, t = { s with xb := { s.xb with ports := p, nextNum := n, turn := u } }

theorem State.OnlyTraffic.refl (s : State) : s.OnlyTraffic s := ⟨_, _, _, rfl⟩

theorem State.OnlyTraffic.trans {a b c : State} (h1 : a.OnlyTraffic b) (h2 : b.OnlyTraffic c) : a.OnlyTraffic c := by
  obtain ⟨p, n, u, rfl⟩ := h1
  obtain ⟨p', n', u', rfl⟩ := h2
  exact ⟨p', n', u', rfl⟩

theorem State.setStackPort_traffic (s : State) (k : Nat) (x : StackPort) : s.OnlyTraffic (s.setStackPort k x) := ⟨_, _, _, rfl⟩

/-- A fold of steps with a property that is kept and composes has it. -/
theorem foldl_keeps {α : Type} (R : State → State → Prop) (hr : ∀ s, R s s) (ht : ∀ a b c, R a b → R b c → R a c) (f : State → α → State)
    (hf : ∀ s a, R s (f s a)) (l : List α) (s : State) : R s (l.foldl f s) := by
  induction l generalizing s with
  | nil => exact hr s
  | cons a l ih => exact ht _ _ _ (hf s a) (ih _)

/-- What a step of Crossway's traffic does: it changes nothing else, and ports that obey their ordering rule still do. -/
def State.Moves (s t : State) : Prop := s.OnlyTraffic t ∧ (s.PortsOrdered → t.PortsOrdered)

theorem State.Moves.refl (s : State) : s.Moves s := ⟨State.OnlyTraffic.refl s, id⟩

theorem State.Moves.trans {a b c : State} (h1 : a.Moves b) (h2 : b.Moves c) : a.Moves c := ⟨h1.1.trans h2.1, h2.2 ∘ h1.2⟩

theorem State.foldl_moves {α : Type} (f : State → α → State) (hf : ∀ t a, State.Moves t (f t a)) (l : List α) (s : State) :
    s.Moves (l.foldl f s) := foldl_keeps State.Moves State.Moves.refl (fun _ _ _ => State.Moves.trans) f hf l s

theorem State.setStackPort_moves (s : State) (k : Nat) (x : StackPort) (h : s.PortsOrdered → x.Ordered) : s.Moves (s.setStackPort k x) :=
  ⟨s.setStackPort_traffic k x, fun hp => s.portsOrdered_setStackPort k x hp (h hp)⟩

theorem State.arrive_moves (s : State) (k : Nat) (r : Req) : s.Moves (s.arrive k r) := by
  unfold State.arrive
  dsimp only
  split
  · exact State.Moves.refl s
  · exact s.setStackPort_moves k _ (fun h => StackPort.ordered_congr (h k) rfl rfl)

theorem State.giveId_moves (s : State) (x : Req) : s.Moves (s.giveId x) := by
  unfold State.giveId
  split
  · exact State.Moves.refl s
  · refine State.foldl_moves _ (fun t e => ?_) _ s
    dsimp only
    split
    · exact t.setStackPort_moves e.1 _ (fun h => StackPort.ordered_congr (h e.1) rfl rfl)
    · exact State.Moves.refl t

theorem State.giveIds_moves (s : State) : s.Moves s.giveIds := by
  unfold State.giveIds
  dsimp only
  split
  · exact State.Moves.refl s
  · exact State.foldl_moves State.giveId State.giveId_moves _ s

theorem State.grantPiece_moves (s : State) (k : Nat) (r : Req) : s.Moves (s.grantPiece k r) := by
  refine State.Moves.trans (s.setStackPort_moves k { s.stackPort k with
    wait := (s.stackPort k).wait.erase r
    reqs := if k < 12 then (s.stackPort k).reqs ++ [{ r with tag := none }] else (s.stackPort k).reqs
    lastR := if r.write then (s.stackPort k).lastR else r.master
    lastW := if r.write then r.master else (s.stackPort k).lastW } (fun h => ?_)) ⟨⟨_, _, _, rfl⟩, fun h => h⟩
  by_cases hk : k < 12
  · exact StackPort.ordered_append (s.stackPort k) _ { r with tag := none } (h k) rfl rfl (by simp only [hk, if_true])
  · exact StackPort.ordered_congr (h k) rfl (by simp only [hk, if_false])

theorem State.grantAll_moves (k : Nat) (write : Bool) (n : Nat) (s : State) : s.Moves (State.grantAll k write n s) := by
  induction n generalizing s with
  | zero => exact State.Moves.refl s
  | succ n ih =>
    unfold State.grantAll
    split
    · exact State.Moves.refl s
    · exact (s.grantPiece_moves k _).trans (ih _)

theorem State.settlePort_moves (s : State) (k : Nat) : s.Moves (s.settlePort k) :=
  ((State.grantAll_moves k false _ s).trans (State.grantAll_moves k true _ _)).trans (by
    unfold State.settlePort
    dsimp only
    split
    · exact State.setStackPort_moves _ k _ (fun h => StackPort.settle_ordered _ (h k))
    · exact State.Moves.refl _)

theorem State.settlePorts_moves (s : State) : s.Moves s.settlePorts :=
  s.giveIds_moves.trans (State.foldl_moves _ State.settlePort_moves _ _)

theorem State.askRun_moves (a : Ask) (data : Nat → Nat → List Byte) (s : State) (g : Tab Nat) : s.Moves (State.askRun a data s g) :=
  State.Moves.trans (⟨⟨_, _, _, rfl⟩, fun h => h⟩ : s.Moves { s with xb := { s.xb with nextNum := s.xb.nextNum + 1 } })
    (State.foldl_moves _ (fun t _ => t.arrive_moves _ _) _ _)

/-- A transfer's requests change the traffic alone, and keep the ports' ordering rule (R263). -/
theorem State.askWith_moves (s : State) (a : Ask) (data : Nat → Nat → List Byte) (g : Tab Nat) : s.Moves (s.askWith a data g) :=
  (State.foldl_moves _ (fun t r => State.askRun_moves a data t r) _ s).trans (State.settlePorts_moves _)

theorem State.ask_moves (s : State) (a : Ask) (g : Tab Nat) : s.Moves (s.ask a g) := s.askWith_moves a _ g

theorem State.issueAll_moves (s : State) (write : Bool) (b : Requester) (w : Option (Nat × Nat)) (g : Tab Nat) :
    s.Moves (s.issueAll write b w g) := s.ask_moves _ g

theorem State.crossSend_moves (s : State) (b : Requester) (master target : Nat) (l : List Nat) : s.Moves (s.crossSend b master target l) :=
  s.askWith_moves _ _ _

/-! ## Window-table entries that an access reads (R42) -/

/-- Requests and caches alone differ, and ports keep their order. -/
def State.Reads (s t : State) : Prop := (∃ y x, t = { s with xb := y, ctxs := x }) ∧ (s.PortsOrdered → t.PortsOrdered)

theorem State.Reads.trans {a b c : State} (h1 : a.Reads b) (h2 : b.Reads c) : a.Reads c := by
  obtain ⟨⟨_, _, rfl⟩, k1⟩ := h1
  obtain ⟨⟨_, _, rfl⟩, k2⟩ := h2
  exact ⟨⟨_, _, rfl⟩, k2 ∘ k1⟩

theorem State.Moves.reads {s t : State} (h : s.Moves t) : s.Reads t := by
  obtain ⟨⟨_, _, _, rfl⟩, k⟩ := h
  exact ⟨⟨_, _, rfl⟩, k⟩

theorem State.winTouch_reads (s : State) (c w : Nat) : s.Reads (s.winTouch c w) := ⟨⟨_, _, rfl⟩, fun h => h⟩

/-- Reading entries sends requests and fills window caches. -/
theorem State.missEntries_reads (s : State) (c : Nat) (ws : List Nat) (b : Requester) : s.Reads (s.missEntries c ws b) := by
  unfold State.missEntries
  refine foldl_keeps State.Reads (fun t => (State.Moves.refl t).reads) (fun _ _ _ => State.Reads.trans) _ (fun t o => ?_) _ s
  exact (t.ask_moves _ _).reads.trans (State.winTouch_reads _ o.1 o.2)

end Sys2Proof.Machine
end

