-- ==== Sys2Proof/Tests/Slice0.lean ====
section
/-!
SUPPORT. Tests of the model: worked examples and tables of the spec, an ill-formed command for each check of WellFormed, and,
for every statement that has hypotheses, a state and operands that meet them together.
-/
set_option Elab.async false

namespace Sys2Proof.Tests

open Sys2Proof.Machine

/-! ## Small states -/

/-- The unit right after step 3 of power-up, with 16 GiB in every stack. -/
def up : State := { State.reset with pwr := ⟨3, List.replicate 12 16, 0xFFF, false⟩ }

/-- A window of 512 MiB on stack 0 with an aside region, resident and open to everything. -/
def win0 : WinEntry := ⟨0x100000, 0x40000000, 1, 0x20000000, true, true, true, true, true, true, true, 0⟩

/-- A context whose window 0 is cached; it is also its save window. -/
def ctxUp : Ctx := { Ctx.reset with win := { Ctx.reset.win with cache := [(0, win0)] } }

/-- The unit with that context as context 1. -/
def one (x : Ctx) : State := up.setCtx 1 x

def runWith (x : Ctx) (f : CtxRun → CtxRun) : Ctx := { x with run := f x.run }

def genWith (x : Ctx) (f : CtxGen → CtxGen) : Ctx := { x with gen := f x.gen }

/-- A format C or T word: opcode, then the bits below. -/
def wordOf (op rest : Nat) : BitVec 128 := BitVec.ofNat 128 (op * 2 ^ 120 + rest)

/-- A decoded instruction at HEAD that has not begun. -/
def cur (w : BitVec 128) : Cur := ⟨0, w, [], [], none, none, .ready, 0, 0, [], false, false, [], none⟩

/-- Context 1 RUNNING with that instruction at HEAD. -/
def ctxAt (i : Cur) : Ctx := { runWith ctxUp (fun r => { r with st := .running, tail := 3 }) with cur := [i] }

def at_ (i : Cur) : State := one (ctxAt i)

/-- A semaphore instruction on pair 5, counter FREE, COUNT 3. -/
def semCur (op : Nat) : Cur := cur (wordOf op (5 * 2 ^ 110 + 2 ^ 109 + 3 * 2 ^ 93))

def semWith (x : Ctx) (free : Nat) (l : List Waiter) : Ctx :=
  { x with sems := ⟨[], if free = 0 then [] else [(5, BitVec.ofNat 32 free)], l⟩ }

/-- An instruction at HEAD in a phase. -/
def inPhase (i : Cur) (p : Phase) : Cur := { i with phase := p }

def commitCur : Cur := cur (wordOf opCommit 0)

/-- A context with window 0 in the write set of its open generation. -/
def genOpen (x : Ctx) : Ctx := genWith x (fun g => { g with isOpen := true, writeSet := [0] })

def lagRec : WinRec := { WinRec.clean with st := .lag, ivs := [(2, 1)] }

def reqBy (b : Requester) (w : Bool) : Req := ⟨w, some 3, 0, 1, 0xFFFF, [], b, 0, 0, some 0, none, none, false, none, none⟩

def withReqs (s : State) (l : List Req) : State := s.setStackPort 0 ⟨[], l, [], 0, 0, []⟩

/-- A cell held by context 1. -/
def cellOf1 : Cell := { Cell.reset with owner := some 1 }

/-- A tensor with window 0, dimension 0 first. -/
def ten (space off : Nat) (ext : List Nat) (stride : List Int) (fmt : BitVec 8) : TDesc :=
  ⟨0, off, 0, fmt, space, ext.length, ext, stride⟩

/-- An instruction of context 1 on cell 0 alone, with its tensors by slot. -/
def curD (op rest : Nat) (descs : List (Nat × TDesc)) : Cur := { cur (wordOf op (2 ^ 108 + rest)) with descs := descs }

/-- Fields of TLOAD and TSTORE: tile 1 as two rows of 32 B, INT8. -/
def tileBits : Nat := 2 ^ 40 + 2 ^ 29 + 0x20 * 2 ^ 18

/-- TMOVE of that tile 1 to tile 2. -/
def moveBits : Nat := 2 ^ 91 + 2 ^ 80 + 0x20 * 2 ^ 60 + 2 * 2 ^ 86 + 2 ^ 71 + 0x20 * 2 ^ 52

/-- Cell 0 with tile 1 VALID. -/
def cellTile : Cell := { Cell.reset with tiles := [(1, ⟨.valid, 0, 0, 1⟩)] }

/-- A 4 by 2 and a 2 by 4 INT8 tensor in staging. -/
def src42 : TDesc := ten 1 0x80000 [4, 2] [1, 4] 0x20
def dst24 : TDesc := ten 1 0x90000 [2, 4] [1, 2] 0x20
def dst42 : TDesc := ten 1 0x90000 [4, 2] [1, 4] 0x20

/-- PERM with AXMAP 1, 0 and REV of dimension 1; no cell axes. -/
def permBits : Nat := 0xF * 2 ^ 11 + 0xF * 2 ^ 7 + 2 ^ 23 + 2 ^ 16

def vec (off n : Nat) (fmt : BitVec 8) : TDesc := ten 1 off [n] [if fmt = 1 then 4 else 1] fmt

/-- Context 1 with a host STOP on the way. -/
def stopping (i : Cur) : State := one (runWith (ctxAt i) (fun r => { r with stopReq := true }))

/-- An open DIR = 0 queue of context 1 with room for two blocks. -/
def openQ : Queue := { Queue.closed with st := .opened, owner := 1, limit := 2 }

/-- A block of two tokens from staging, the first of them fetched. -/
def block2 : Block := ⟨0, 0, vec 0x80000 256 0x20, none, 0, 1, 0, false, false, 0, 2, 1, 0, false, [], 0, [], []⟩

def cellQ (q : Queue) (k : Chan) : Cell := { cellOf1 with queues := [(2, q)], chans := if k = Chan.idle then [] else [(2, k)] }

/-- The unit with context 1 and queue 2 of cell 0. -/
def withQ (x : Ctx) (q : Queue) (k : Chan) : State := (one x).setCell 0 (cellQ q k)

def sendQ : Queue := { openQ with blocks := [block2], staged := [natLe 128 7], credits := 1 }

def ringQ : Queue := { openQ with dir := true, sd := { SDesc.none with rsize := 1 } }

def tok : Token := ⟨natLe 128 9, 2, 0, 0, true, false⟩

def rotor : Carousel := ⟨1, 1, false, vec 0x80000 128 0x20, none, false, 1, 0⟩

/-- Cells 0 to 63 of slice 0 with one Carousel on queue 2. -/
def ringOf64 : State :=
  { one ctxUp with cells := (List.range 64).map (fun g => (g, cellQ { openQ with carousel := some rotor } Chan.idle)) }

def clkWith (f : Clk → Clk) : State := { up with clk := f up.clk }

def timeWith (f : Time → Time) : State := { up with time := f up.time }

/-- Port 2 is UP on two lanes. -/
def portUp : Port := { Port.reset with st := 3, active := 3, ready := 3, nbr := 7, credit := [9, 9, 9, 9] }

/-- A follower whose upstream port is port 2. -/
def follower : State := (timeWith (fun t => { t with cfg := 0x0080000000000000 })).setPort 2 portUp

/-- A 10 us window in which everything agrees. -/
def calm : ClockWindow := ⟨false, true, 0, false, 0⟩

def proofedClk : Clk := { up.clk with proofed := true, refOk := true }

def xbWith (f : Xb → Xb) : State := { up with xb := f up.xb }

def cfgWith (f : Cfg → Cfg) : State := { up with cfg := f up.cfg }

/-- Stack `k` is in STATE `v`. -/
def stackIn (k : Nat) (v : BitVec 4) : State := xbWith (fun x => { x with stackState := tabSet 0 x.stackState k v })

def nopAt : State := at_ (cur (wordOf opNop 0))

/-- Window 0 of the table at address 0 of stack 0 is VALID and lies on stack 0; a plan of one entry stands at 64 KiB. -/
def planned : State :=
  ({ up with xb := { up.xb with count := 1 } }).setStack 0 (((Mem.blank.write 22 [1]).write 28 [0x80]).write 0x10010 [1])

def planEntry : PlanEntry := ⟨0, 0, 1, 0, 0⟩

def migrating (plan : List PlanEntry) : State := xbWith (fun x => { x with go := true, mig := some ⟨1, plan, 0, 0⟩ })

/-- The header of a slice 0 image of one frame for a T12 of revision 0, signed with key 0. -/
def hdrBytes (digest r s : Nat) : List Byte :=
  imageMagic ++ natLe 8 0x7A315E0000000001 ++ [0, 0, 0, 0] ++ natLe 4 1 ++ natLe 8 4352 ++ natLe 4 1 ++ List.replicate 28 0
    ++ (natLe 48 digest).reverse ++ natLe 48 r ++ natLe 48 s ++ List.replicate 48 0

/-- A public key under which (e, e) signs the digest e of that header: a point with x = e, less the base point. -/
def key0 : Nat × Nat :=
  (0x5ac671303e0c73dbb6a08b56b16ddde91ec83ba0b30ac757e7decbb54a4b71e68980d4ea004dc7c66c9405f88bfd6526,
   0x3627f07aac67448cfb81eb2778f78aa2b2774b2b36e1bc6b09e3a5a456bdaf6690c8f91e8db8f4e786ea24eccd34963d)

/-- A unit whose fuses hold that key as key 0. -/
def keyed (f : Cfg → Cfg) : State :=
  { cfgWith (fun c => f { c with retain := 0x8000000000000000 }) with fuses := { Fuses.blank with keys := [(0, key0)] } }

def hdr0 : ImgHdr := ⟨0, 0, 1, 256, 1, 0, [], 0, 0⟩

def digest0 : Nat := sha384 ((hdrBytes 0 0 0).take 64)

def signed0 : List Byte :=
  let e := sha384 ((hdrBytes digest0 0 0).take 112)
  hdrBytes digest0 e e

def withImage (bs : List Byte) : State := keyed (fun c => { c with st := 1, load := 0xA0, img := ⟨bs, some hdr0, [], 0⟩ })

def staged (r : BitVec 8) (x : State) : State :=
  { x with cfg := { x.cfg with st := 2, img := ⟨[], some { hdr0 with region := r }, [], 0⟩ } }

def acting (st : BitVec 3) (r : BitVec 8) (a : Act) : State :=
  let x := staged r up
  { x with cfg := { x.cfg with st := st, act := some a } }

def regionWith (k : Nat) (f : Region → Region) : State := up.updRegion k f

def sliceWith (n : Nat) (f : Slice → Slice) : State := up.updSlice n f

def glbWith (f : Glb → Glb) : State := { up with glb := f up.glb }

/-! ## Two facts that a table walk or an open value stands in the way of -/

theorem planned_table (c w : Nat) : (planned.setCmd 0x10000101).winTable c w = winDecode ((planned.stack 0).read (32 * w) 32) := by
  have h : ((planned.setCmd 0x10000101).ctx c).cfg.winTab = 0 := rfl
  have : (planned.setCmd 0x10000101).winAddr c w = (0, 32 * w) := by
    rw [State.winAddr, h]
    simp [field]
  rw [State.winTable, this]
  rfl

theorem planned_cells : planned.stack 0 = ⟨[(22, 1), (28, 0x80), (0x10010, 1)], []⟩ := by decide +kernel

theorem planned_zero (a : Nat) (h : 32 ≤ a) (k : a < 0x10010) : (planned.stack 0).get a = 0 := by
  have h1 : a ≠ 22 ∧ a ≠ 28 ∧ ¬ a < 22 ∧ ¬ a < 28 ∧ a ≠ 0x10010 := by omega
  simp [planned_cells, Mem.get, cellAt, undefByte, h1, k]

/-- No window of the table names stack 1. -/
theorem planned_apart (c w : Nat) (hw : w < 1024) :
    (!((planned.setCmd 0x10000101).winTable c w).valid || !((planned.setCmd 0x10000101).winTable c w).stackList.contains 1) = true := by
  rw [planned_table]
  by_cases h : w = 0
  · subst h
    decide +kernel
  · have : (planned.stack 0).read (32 * w) 32 = List.replicate 32 0 := by
      refine List.eq_replicate_iff.mpr ⟨by simp [Mem.read], fun b hb => ?_⟩
      obtain ⟨i, hi, rfl⟩ := List.mem_map.mp hb
      have := List.mem_range.mp hi
      exact planned_zero _ (by omega) (by omega)
    rw [this]
    decide +kernel

theorem planned_accepted : (planned.setCmd 0x10000101).retireRefused 1 (planned.setCmd 0x10000101).readPlan = none := by
  have h1 : (planned.setCmd 0x10000101).planCovers 1 (planned.setCmd 0x10000101).readPlan = true := by
    rw [State.planCovers, List.all_eq_true]
    intro c _
    rw [List.all_eq_true]
    intro w hw
    simp only [planned_apart c w (List.mem_range.mp hw), Bool.true_or]
  have h2 : (planned.setCmd 0x10000101).followersOk (planned.setCmd 0x10000101).readPlan = true := by
    rw [State.followersOk, List.all_eq_true]
    intro c _
    rw [List.all_eq_true]
    intro w _
    have h : ∀ f, tabGet (0 : Word) ((planned.setCmd 0x10000101).ctx c).cfg.follow f = 0 := fun _ => rfl
    have : (planned.setCmd 0x10000101).follow c w = none := by
      simp only [State.follow, h]
      simp [bitAt]
    rw [this]
  have h3 : (planned.setCmd 0x10000101).readPlan = [planEntry] := by decide +kernel
  have h4 : (planned.setCmd 0x10000101).tablesIn 1 = false := by decide +kernel
  have h6 : [planEntry].findIdx? ((planned.setCmd 0x10000101).planBad 1) = none := by decide +kernel
  rw [h3] at h1 h2 ⊢
  simp only [State.retireRefused, h1, h2, h4, h6]
  rfl

/-- A step above 63 names a slot that no image holds. -/
theorem slot64_absent (w : Word) : (withQ ctxUp { openQ with carousel := some { rotor with step := 64 } } Chan.idle).carouselUses 0 w.toNat = true := by
  have h : bitAt w.toNat 64 = false := by
    have := w.isLt
    rw [bitAt, Nat.div_eq_of_lt this]
    rfl
  show ((true && (!bitAt w.toNat 64 || false)) || false) = true
  rw [h]
  rfl

/-! ## The fabric -/

def fabWith (s : State) (f : Fab → Fab) : State := { s with fab := f s.fab }

/-- Every destination goes by port 2. -/
def route2 : Word := 0x8000000080000000

/-- Node 1, with root 7 and port 2 UP. -/
def net (x : State) : State :=
  { x with fab := { x.fab with addr := 1, rootAddr := 7, addrValid := true, route := [(0, route2)], ports := [(2, portUp)] } }

def netPort (f : Port → Port) : State := fabWith (net up) (fun x => { x with ports := [(2, f portUp)] })

theorem reaches_net (s : State) (h : s.fab.route = [(0, route2)]) (k : s.liveHops route2.toNat = [2]) (d : BitVec 20) : s.Reaches d := by
  refine Or.inr fun n hn => ?_
  have h1 : field n.dst.toNat 19 0 = n.dst.toNat % 2 ^ 20 := by simp [field]
  have h2 : routeMatch route2.toNat n.dst.toNat = true := by
    have := n.dst.isLt
    have h3 : n.dst.toNat / 2 ^ 20 = 0 := Nat.div_eq_of_lt this
    simp only [routeMatch]
    rw [show field route2.toNat 57 53 = 0 from by decide, show field route2.toNat 52 50 = 0 from by decide,
      show field route2.toNat 19 0 = 0 from by decide, h3]
    decide
  have h4 : bestRoute s.fab.route n.dst.toNat = some route2.toNat := by
    rw [h]
    simp only [bestRoute, List.foldl_cons, List.foldl_nil, h2, if_true]
  simp only [State.routeOf, h4, k]
  simp [Nat.mod_one]

def hdr (op src : Nat) : NetHdr := ⟨BitVec.ofNat 6 op, 1, BitVec.ofNat 20 src, 1, 5, 0, 3, 0, 0x20, 0, 0⟩

/-- A frame for node 1. -/
def frame (h : NetHdr) (data : List Byte) : Frame := ⟨0, 0, 0xFFFF, 0, 0, h, data⟩

/-- Node 1 with a frame in its own loop and the request that the frame belongs to. -/
def looped (x : State) (f : Frame) (write : Bool) : State :=
  fabWith (net x) (fun y => { y with loop := [f], txns := [⟨3, f, 1, write, 0, false, false, 65536, none, []⟩] })

/-- The Ledger in stacks 0 and 1 from address 0 on, with entry 0 of slot 0 of window 0 of context 1 at a node, and entry 1 the
same at node 5. -/
def ledgerMem (node : Nat) : Mem :=
  (Mem.blank.write 0 (natLe 8 (2 ^ 63 + node * 2 ^ 35 + 2 ^ 29))).write 8 (natLe 8 (2 ^ 63 + 5 * 2 ^ 35 + 2 ^ 29))

def withLedger (x : State) (node : Nat) : State :=
  { fabWith x (fun y => { y with ledger := 0x0100000000000000 }) with stks := [(0, ledgerMem node), (1, ledgerMem node)] }

/-- Node 1 owns entry 0: window 0 of context 1. -/
def owner (x : Ctx) : State := withLedger (one x) 1

/-- A window without an aside region. -/
def plainWin : Ctx := { ctxUp with win := { ctxUp.win with cache := [(0, ({ win0 with aside := false } : WinEntry))] } }

def globalVec (n : Nat) : TDesc := ten 0 0 [n] [1] 0x20

/-- Node 1, owner of entry 0, whose walker resolves the entry for a request that came by port 2; the last read of the copies is out. -/
def resolving (x : State) (f : Frame) : State :=
  fabWith (withReqs (net x) [reqBy (.resolve ⟨some 2, f, 0⟩) false]) (fun y => { y with resolving := [⟨some 2, f, 0⟩] })

def rgetCur : Cur := curD opRget 0 [(0, globalVec 4), (2, vec 0x81000 2 0x20), (3, vec 0x82000 2 0x20)]

def rputCur : Cur := curD opRput 0 [(0, vec 0x80000 2 0x20), (1, vec 0x81000 2 0x20), (2, globalVec 4)]

def reshardCur : Cur := { curD opReshard 0 [(0, globalVec 4), (2, globalVec 4)] with table := [0, 0, 0, 0x6000000000000001] }

/-- Context 1 with that instruction at HEAD, node 5 (or another) owning entry 0. -/
def fabAt (i : Cur) (node : Nat) : State := net (withLedger (at_ i) node)

/-- Indices 0 and b. -/
def indexed (s : State) (b : Byte) : State := s.setCell 0 { Cell.reset with mem := Mem.blank.set 0x81001 b }

/-- An RGET that waits for its answer, and the answer. -/
def readAnswer : Frame := frame (hdr 0x02 5) [7, 9]

def rgetTxn : Txn := ⟨3, frame (hdr 0x01 1) [], 1, false, 0, false, false, 65536, some (1, 0, 0), [(0, 0), (1, 8)]⟩

def rgetWaits (t : Txn) : State := fabWith (fabAt (inPhase rgetCur .moved) 5) (fun y => { y with txns := [t] })

def rputWaits (t : Txn) : State := fabWith (fabAt (inPhase rputCur .moved) 5) (fun y => { y with txns := [t] })

def putTxn : Txn := { rgetTxn with write := true, dest := [], frame := frame (hdr 0x03 1) [] }

/-! ### Groups -/

/-- A generation message of group 9, with the second half of word 2. -/
def genFrame (op boff fgen : Nat) : Frame :=
  frame { hdr op 7 with w2 := packW2 9 boff 0, fgen := BitVec.ofNat 32 fgen } []

/-- The record of group 9 at its coordinator: two members, (7, 1) and (8, 2). -/
def record (joins votes : List (Nat × Nat)) (forming : Bool) (decided : Option Bool) : Coord :=
  ⟨9, 2, joins, votes, 4, 3, forming, decided⟩

def coordState (x : Coord) : State := fabWith (net up) (fun y => { y with coord := [x] })

def genWord : Nat := 2 ^ 119

/-- Context 1, a member of group 9 with coordinator 7, in that state of its side. -/
def memberAt (i : Cur) (f : CtxGen → CtxGen) : State :=
  let x := genWith (ctxAt i) f
  let run := if i.phase = .waiting then runWith x (fun r => { r with st := .waiting }) else x
  fabWith (net (one run)) (fun y => { y with grp := [(1, 0x0009000070000100)] })

def genCur : Cur := cur (wordOf opGen genWord)

/-! ### The Ledger and management -/

def lreq : LedgerReq := ⟨0, 0x8000000000000007, true, none⟩

def ledgerState (f : Fab → Fab) : State := fabWith (withLedger (net up) 1) f

def inGen (x : State) : State := x.setCtx 1 (genWith ctxUp (fun g => { g with isOpen := true, fab := true }))

/-- REG_RD or REG_WR for this node, from a node: HPTR equal to RLEN. -/
def mgmtFrame (op src a v : Nat) : Frame := frame { hdr op src with w2 := 0, w3 := 0x10000 } (natLe 8 a ++ natLe 8 v)

theorem rget_places : ∀ e ∈ rgetTxn.dest, ∃ g, ((rgetWaits rgetTxn).destAt rgetTxn.ctx (inPhase rgetCur .moved) e.1).2.place = .cell g := by
  have h : ∀ e ∈ rgetTxn.dest, ((rgetWaits rgetTxn).destAt rgetTxn.ctx (inPhase rgetCur .moved) e.1).2.place = .cell 0 := by decide +kernel
  exact fun e he => ⟨0, h e he⟩

/-- No context of a state with these contexts is in a flip. -/
theorem no_flip (s : State) (x : Ctx) (h : s.ctxs = (one x).ctxs) (k : x.gen.flip ≠ .begun) : ∀ d, (s.ctx d).gen.flip ≠ .begun := by
  intro d
  have e : s.ctx d = (one x).ctx d := by simp only [State.ctx, h]
  rw [e, one, State.setCtx_ctx]
  split
  · exact k
  · show (Ctx.reset).gen.flip ≠ .begun
    decide

theorem no_abort : ∀ (lines : List Nat) (c : Nat) (n : BitVec 32) (req : Option Arrival),
    LockJob.rewrite [0] (some (1, 0)) none = .rewrite lines (some (c, n)) req →
    ((fabAt rgetCur 5).ctx c).gen.abortBit = false := by
  intro lines c n req h
  cases h
  decide +kernel

/-- With requests at stack port 0 alone, a property of every waiting piece and of every request holds if it holds there. -/
theorem one_port_wait {s : State} {x : StackPort} (h : s.xb.ports = [(0, x)]) {P : Nat → Req → Prop} (k : ∀ q ∈ x.wait, P 0 q) :
    ∀ j, ∀ q ∈ (s.stackPort j).wait, P j q := by
  intro j q hq
  rw [State.stackPort, h, tabGet] at hq
  split at hq
  next e => subst e; exact k q hq
  next => rw [if_neg (by omega)] at hq; exact absurd hq List.not_mem_nil

theorem one_port_reqs {s : State} {x : StackPort} (h : s.xb.ports = [(0, x)]) {P : Nat → Req → Prop} (k : ∀ q ∈ x.reqs, P 0 q) :
    ∀ j, ∀ q ∈ (s.stackPort j).reqs, P j q := by
  intro j q hq
  rw [State.stackPort, h, tabGet] at hq
  split at hq
  next e => subst e; exact k q hq
  next => rw [if_neg (by omega)] at hq; exact absurd hq List.not_mem_nil

/-! ## Worked examples of the spec -/

/-- The worked example of the encoding chapter: the PERM of the 96 GiB permutation. -/
def permWord : BitVec 128 := 0x21FFF03F0A0000000400000321007FE0

theorem test_perm_fields : let i := cur permWord
    (i.op, i.smask, i.cfirst, i.ccount) = (0x21, 0xFFF, 0, 64) ∧ (i.otWin, i.otOff) = (40, 0x1000)
      ∧ (List.range 4).map i.axmap = [2, 0, 1, 3] ∧ axisField (i.f 14 11) = none ∧ axisField (i.f 10 7) = none
      ∧ i.sbuf = 0xE0000 := by decide +kernel

/-- It engages every cell of all twelve slices. -/
theorem test_perm_cells : (cur permWord).cells = List.range 768 := by decide +kernel

theorem test_perm_bytes : natLe 16 permWord.toNat
    = [0xE0, 0x7F, 0, 0x21, 3, 0, 0, 4, 0, 0, 0, 0x0A, 0x3F, 0xF0, 0xFF, 0x21] := by decide +kernel

/-- Its operand table, slot 1. -/
theorem test_table_entry : let e : Word := 0x20280000000010C0
    (entryKind e, entryWindow e, entryOffset e) = (1, 40, 0x10C0) := by decide +kernel

/-- The worked example of the register map: ALIAS at step 8 of validation on dimension 2 of slot 1 of instruction 3. -/
theorem test_fault_word :
    ({ code := fcAlias, stage := 2, step := 8, slot := some 1, dim := some 2 } : FaultRec).word0 3 = 0x0651340000000003 := by
  decide +kernel

/-- The worked example of the descriptor chapter: the footprint, and the dimension that fails. -/
theorem test_footprint : let d := ten 0 0x10000 [32, 3, 2] [2, 128, -192] 0x02
    d.lo none = 0xFF40 ∧ d.hi none = 0x1013F ∧ d.injFails none = some 2 := by decide +kernel

/-- The format chapter: 0.3, here 5033165 / 2^24, to INT8 under RNE is 0 and sets UNDERFLOW. -/
theorem test_underflow : encodeElem 0x20 .rne false (.fin false 5033165 (-24)) = (0, 1) := by decide +kernel

/-- FIPS 180-4 gives SHA-384 of "abc" (log 32). -/
theorem test_sha384 : sha384 [0x61, 0x62, 0x63]
    = 0xcb00753f45a35e8bb5a03d699ac65007272c32ab0eded1631a8b605a43ff5bed8086072ba1e7cc2358baeca134c825a7 := by decide +kernel

/-! ## Commands that cannot be presented, one for each check of WellFormed -/

theorem test_wf_token : (Instr.dataTokenReceive 0 ⟨[0], 2, 0, 0, true, false⟩).wf = false := by decide

theorem test_wf_edge : (Instr.beatEdge [(768, 1)] 0 0).wf = false := by decide

theorem test_wf_caps : (Instr.powerUp [4] true).wf = false := by decide

theorem test_wf_retained : (Instr.scrubFrame 0 0 [1]).wf = false := by decide

theorem test_wf_payload : (Instr.frameForward 2 (frame (hdr 0x01 1) (List.replicate 513 0))).wf = false := by decide +kernel

theorem test_wf_codeword : (Instr.badFrame 2 ⟨[], [(0, [1])]⟩).wf = false := by decide

theorem test_wf_operation : (Instr.readReq none (frame (hdr 0x02 1) [])).wf = false := by decide

theorem test_wf_reserved : (Instr.reservedOpFrame none (frame (hdr 0x01 1) [])).wf = false := by decide

theorem test_wf_aligned : (Instr.registerWrite 4 false 1).wf = false := by decide

theorem test_wf_accepts : (Instr.readReq none (frame (hdr 0x01 1) [])).wf = true := by decide

/-! ## One step -/

/-- The front command is taken, the rest stays. -/
theorem test_step_front : step { up with pending := [.clamp, .tasterSample] }
    = .next { up with tap := { up.tap with ir := 8, pinsHeld := true, bypass := false }, pending := [.tasterSample] } := rfl

/-- No row gives bits (log 12). -/
theorem test_no_word (n w : Nat) : decodeTableWord n w = none := rfl

/-! ## The hypotheses of the statements can be met -/

theorem witness_StepKeepsMemories : ∃ s t : State, s.MemWf ∧ step s = .next t :=
  ⟨{ planned with pending := [.tasterSample] }, _, by
    refine ⟨⟨?_, ?_⟩, rfl⟩ <;> decide +kernel⟩

theorem witness_StepKeepsPortOrder : ∃ s t : State, s.PortsOrdered ∧ step s = .next t := by
  refine ⟨{ nopAt with pending := [.tasterSample] }, _, fun k => ?_, rfl⟩
  exact List.Pairwise.nil

theorem witness_PortNotServed :
    (∃ (i : Instr) (s : State),
      i.controlPort = true
      ∧ (∀ a z v, i ≠ .registerWrite a z v)
      ∧ s.serving = false)
    ∧ (∃ (s : State),
      s.pwr.step < 2)
    ∧ (∃ (a : BitVec 24) (z : Bool) (s : State),
      s.ready = false ∧ a.toNat % (if z then 4 else 8) = 0 ∧ a.toNat / 8 * 8 ≠ 0x8 ∧ a.toNat / 8 * 8 ≠ 0x100000)
    ∧ (∃ (s : State),
      2 ≤ s.pwr.step ∧ s.tap.pinsHeld = false) :=
  ⟨⟨.doorbell 1 5, State.reset, rfl, fun _ _ _ h => (by cases h), rfl⟩,
   ⟨State.reset, by decide +kernel⟩,
   ⟨0x10, false, { State.reset with pwr := { State.reset.pwr with step := 2 } }, by decide +kernel⟩,
   ⟨{ State.reset with pwr := { State.reset.pwr with step := 2 }, glb := { State.reset.glb with badAcc := true } }, by decide +kernel⟩⟩

theorem witness_DoorbellAccepted : ∃ (c : Fin 64) (v : Word) (s : State),
    s.serving = true
    ∧ (v.setWidth 32 - (s.ctx c).run.head).toNat ≤ s.rlen c
    ∧ ((s.ctx c).run.tail - (s.ctx c).run.head).toNat ≤ (v.setWidth 32 - (s.ctx c).run.head).toNat :=
  ⟨1, 2, one (runWith ctxUp (fun r => { r with tail := 1 })), by decide +kernel⟩

theorem witness_DoorbellRejected : ∃ (c : Fin 64) (v : Word) (s : State),
    s.serving = true
    ∧ (s.rlen c < (v.setWidth 32 - (s.ctx c).run.head).toNat
      ∨ (v.setWidth 32 - (s.ctx c).run.head).toNat < ((s.ctx c).run.tail - (s.ctx c).run.head).toNat) :=
  ⟨1, 1, one (runWith ctxUp (fun r => { r with tail := 2 })), by decide +kernel⟩

theorem witness_DoorbellNeverLaps : ∃ (c : Fin 64) (d : Fin 64) (v : Word) (s : State) (t : State),
    exec (.doorbell c v) s = .next t
    ∧ ((s.ctx d).run.tail - (s.ctx d).run.head).toNat ≤ s.rlen d :=
  ⟨1, 1, 2, one ctxUp, (one ctxUp).doorbell 1 2, rfl, by decide +kernel⟩

theorem witness_HeadWriteAccepted : ∃ (c : Fin 64) (v : Word) (s : State),
    s.serving = true
    ∧ (s.ctx c).run.st = .stopped
    ∧ ((s.ctx c).run.tail - v.setWidth 32).toNat ≤ s.rlen c :=
  ⟨1, 1, one (runWith ctxUp (fun r => { r with tail := 2 })), by decide +kernel⟩

theorem witness_HeadWriteRejected : ∃ (c : Fin 64) (v : Word) (s : State),
    s.serving = true
    ∧ ((s.ctx c).run.st ≠ .stopped ∨ s.rlen c < ((s.ctx c).run.tail - v.setWidth 32).toNat) :=
  ⟨1, 3, one (runWith ctxUp (fun r => { r with tail := 2 })), by decide +kernel⟩

theorem witness_RunLeavesStopped : ∃ (c : Fin 64) (s : State),
    s.serving = true
    ∧ (s.ctx c).run.st = .stopped
    ∧ s.runCheck c = none :=
  ⟨1, one (runWith ctxUp (fun r => { r with tail := 2 })), by decide +kernel⟩

theorem witness_RunChecksTable : ∃ (c : Fin 64) (s : State),
    s.serving = true
    ∧ (s.ctx c).run.st = .stopped
    ∧ s.stackState (field (s.ctx c).cfg.winTab.toNat 63 60) ≠ 1 :=
  ⟨1, one { ctxUp with cfg := { ctxUp.cfg with winTab := 0xC000000000000000 } }, by decide +kernel⟩

theorem witness_StopAtBoundary :
    (∃ (c : Fin 64) (s : State),
      s.serving = true
      ∧ ((s.ctx c).run.st = .running ∧ (s.ctx c).cur = [] ∨ (s.ctx c).run.st = .idle
        ∨ ((s.ctx c).run.st = .waiting ∧ s.waitHead c opSwait = none))
      ∧ (s.ctx c).gen.abortBit = false)
    ∧ (∃ (c : Fin 64) (s : State),
      s.serving = true
      ∧ ((s.ctx c).run.st = .running ∧ (s.ctx c).cur = [] ∨ (s.ctx c).run.st = .idle
        ∨ ((s.ctx c).run.st = .waiting ∧ s.waitHead c opSwait = none))
      ∧ (s.ctx c).gen.abortBit = false
      ∧ (s.ctx c).run.st = .idle) :=
  ⟨⟨1, one (runWith ctxUp (fun r => { r with st := .running, tail := 2 })), by decide +kernel⟩,
   ⟨1, one (runWith ctxUp (fun r => { r with st := .idle })), by decide +kernel⟩⟩

theorem witness_StopOfWait :
    (∃ (c : Fin 64) (s : State) (i : Cur) (o : Nat) (p : Nat),
      s.serving = true
      ∧ (s.ctx c).run.st = .waiting
      ∧ s.waitHead c opSwait = some i
      ∧ s.waitsOn c i = some (o, p)
      ∧ (s.ctx c).run.pendFault = none
      ∧ (s.ctx c).gen.abortBit = false
      ∧ s.waiterReady c o p i = true)
    ∧ (∃ (c : Fin 64) (s : State) (i : Cur) (o : Nat) (p : Nat),
      s.serving = true
      ∧ (s.ctx c).run.st = .waiting
      ∧ s.waitHead c opSwait = some i
      ∧ s.waitsOn c i = some (o, p)
      ∧ (s.ctx c).run.pendFault = none
      ∧ (s.ctx c).gen.abortBit = false
      ∧ s.waiterReady c o p i = false) :=
  ⟨⟨1, one (semWith (runWith (ctxAt (inPhase (semCur opSwait) .waiting)) (fun r => { r with st := .waiting })) 7 [⟨1, 5, true, 3⟩]), inPhase (semCur opSwait) .waiting, 1, 5, by decide +kernel⟩,
   ⟨1, one (semWith (runWith (ctxAt (inPhase (semCur opSwait) .waiting)) (fun r => { r with st := .waiting })) 2 [⟨1, 5, true, 3⟩]), inPhase (semCur opSwait) .waiting, 1, 5, by decide +kernel⟩⟩

theorem witness_SemWriteSetsPair : ∃ (c : Fin 64) (p : Fin 1024) (s : State),
    s.serving = true
    ∧ (s.ctx c).run.st = .stopped
    ∧ s.bindOf c p = none :=
  ⟨1, 5, one ctxUp, by decide +kernel⟩

theorem witness_SemSignalAdds : ∃ (c : Fin 64) (v : Word) (s : State) (o : Nat) (p : Nat),
    s.serving = true
    ∧ s.semPair c (field v.toNat 26 17) = some (o, p)
    ∧ (s.semGet o p (bitAt v.toNat 16)).toNat + field v.toNat 15 0 < 2 ^ 32 :=
  ⟨1, BitVec.ofNat 64 (5 * 2 ^ 17 + 2 ^ 16 + 7), one ctxUp, 1, 5, by decide +kernel⟩

theorem witness_SemSignalRejected : ∃ (c : Fin 64) (v : Word) (s : State),
    s.serving = true
    ∧ (s.semPair c (field v.toNat 26 17)).all (fun e =>
      decide (2 ^ 32 ≤ (s.semGet e.1 e.2 (bitAt v.toNat 16)).toNat + field v.toNat 15 0)) = true :=
  ⟨1, 1, one { ctxUp with sems := { ctxUp.sems with filled := [(0, 0xFFFFFFFF)] } }, by decide +kernel⟩

theorem witness_WindowCacheDiscarded :
    (∃ (c : Fin 64) (v : Word) (s : State),
      s.serving = true
      ∧ (s.ctx c).win.busy = false
      ∧ bitAt v.toNat 62 = true)
    ∧ (∃ (c : Fin 64) (s : State),
      s.serving = true
      ∧ (s.ctx c).run.st = .stopped) :=
  ⟨⟨1, BitVec.ofNat 64 (2 ^ 62), one ctxUp, by decide +kernel⟩,
   ⟨1, one ctxUp, by decide +kernel⟩⟩

theorem witness_HostAbortCases :
    (∃ (c : Fin 64) (s : State),
      s.serving = true
      ∧ (s.ctx c).gen.abortBit = false
      ∧ (s.ctx c).gen.replayBit = false
      ∧ (s.ctx c).gen.flip = .none ∧ (s.ctx c).gen.isOpen = false)
    ∧ (∃ (c : Fin 64) (s : State),
      s.serving = true
      ∧ (s.ctx c).gen.abortBit = false
      ∧ (s.ctx c).gen.replayBit = false
      ∧ (s.ctx c).gen.flip ≠ .none)
    ∧ (∃ (c : Fin 64) (s : State),
      s.serving = true
      ∧ (s.ctx c).gen.abortBit = false
      ∧ (s.ctx c).gen.replayBit = false
      ∧ (s.ctx c).gen.flip = .none ∧ (s.ctx c).gen.isOpen = true ∧ (s.ctx c).gen.member = .voted)
    ∧ (∃ (c : Fin 64) (s : State),
      s.serving = true
      ∧ (s.ctx c).gen.abortBit = false
      ∧ (s.ctx c).gen.replayBit = false
      ∧ (s.ctx c).gen.flip = .none ∧ (s.ctx c).gen.isOpen = true ∧ (s.ctx c).gen.fab = false ∧ (s.ctx c).gen.member = .idle ∧ (s.ctx c).run.st = .stopped) :=
  ⟨⟨1, one ctxUp, by decide +kernel⟩,
   ⟨1, one (genWith ctxUp (fun g => { g with isOpen := true, flip := .begun })), by decide +kernel⟩,
   ⟨1, one (genWith ctxUp (fun g => { g with isOpen := true, fab := true, member := .voted })), by decide +kernel⟩,
   ⟨1, one (genWith ctxUp (fun g => { g with isOpen := true })), by decide +kernel⟩⟩

theorem witness_ReplayRefused : ∃ (c : Fin 64) (s : State),
    s.serving = true
    ∧ (s.ctx c).gen.abortBit = false
    ∧ (s.ctx c).gen.replayBit = false
    ∧ ((s.ctx c).run.st ≠ .stopped ∨ (s.ctx c).gen.noReplay = true
      ∨ s.rlen c < ((s.ctx c).run.tail - (s.ctx c).gen.replayHead).toNat ∨ s.saveCheck c ≠ none
      ∨ (s.saveWindow c).resident = false) :=
  ⟨1, one (runWith ctxUp (fun r => { r with st := .running })), by decide +kernel⟩

theorem witness_ReplayRestarts : ∃ (c : Fin 64) (s : State),
    s.serving = true
    ∧ (s.ctx c).gen.abortBit = false
    ∧ (s.ctx c).gen.replayBit = false
    ∧ s.replayOk c = true
    ∧ (s.ctx c).gen.isOpen = false :=
  ⟨1, one ctxUp, by decide +kernel⟩

theorem witness_IrqWrites :
    (∃ (s : State),
      s.serving = true)
    ∧ (∃ (s : State),
      s.serving = true) :=
  ⟨⟨one ctxUp, by decide +kernel⟩,
   ⟨one ctxUp, by decide +kernel⟩⟩

theorem witness_IrqEnableSends : ∃ (c : Fin 64) (v : Word) (s : State),
    s.serving = true
    ∧ s.msiOn = true
    ∧ s.glb.msiQ.length < 256
    ∧ (s.ctx c).irq = 0b1000
    ∧ bitAt v.toNat 1 = true
    ∧ bitAt v.toNat 3 = false :=
  ⟨1, 2, ({ up with glb := { up.glb with msiData := 0x8000000000000000 } }).setCtx 1 { ctxUp with irq := 8 }, by decide +kernel⟩

theorem witness_MsiEnableWrites :
    (∃ (v : Word) (s : State),
      s.serving = true
      ∧ (s.msiOn = true ∨ bitAt v.toNat 63 = false))
    ∧ (∃ (v : Word) (s : State),
      s.serving = true
      ∧ s.msiOn = false ∧ bitAt v.toNat 63 = true ∧ s.glb.msiQ.length + s.vectorsDue.length ≤ 256) :=
  ⟨⟨5, up, by decide +kernel⟩,
   ⟨0x8000000000000005, { up with glb := { up.glb with irq := 12 } }, by decide +kernel⟩⟩

theorem witness_SemPairResolves :
    (∃ (c : Nat) (s : State),
      (∀ b, b < 16 → bitAt (tabGet (0 : Word) (s.ctx c).cfg.binds b).toNat 63 = false))
    ∧ (∃ (c : Nat) (p : Nat) (s : State),
      (bitAt (tabGet (0 : Word) (s.ctx c).cfg.binds 2).toNat 63 = true ∧ field (tabGet (0 : Word) (s.ctx c).cfg.binds 2).toNat 9 0 = p ∧ (∀ a, a < 16 → bitAt (tabGet (0 : Word) (s.ctx 2).cfg.binds a).toNat 63 = false) ∧ field (tabGet (0 : Word) (s.ctx c).cfg.binds 2).toNat 37 32 = 2))
    ∧ (∃ (c : Nat) (p : Nat) (s : State),
      bitAt (tabGet (0 : Word) (s.ctx c).cfg.binds 2).toNat 63 = true ∧ field (tabGet (0 : Word) (s.ctx c).cfg.binds 2).toNat 9 0 = p ∧ field (tabGet (0 : Word) (s.ctx c).cfg.binds 2).toNat 37 32 = c) :=
  ⟨⟨1, one ctxUp, by decide +kernel⟩,
   ⟨1, 5, one { ctxUp with cfg := { ctxUp.cfg with binds := [(2, 0x8001C00200000005)] } }, by decide +kernel⟩,
   ⟨1, 5, one { ctxUp with cfg := { ctxUp.cfg with binds := [(2, 0x8001C00100000005)] } }, by decide +kernel⟩⟩

theorem witness_FetchReadsRing : ∃ (c : Fin 64) (s : State),
    s.active c = true
    ∧ s.crossRuns = true
    ∧ s.leftFrom c (s.nextFetch c) ≠ 0
    ∧ (s.ctx c).cur.length + (s.ctx c).fetched.length < 32
    ∧ s.behindSwait c = false
    ∧ s.flipHold c [(s.ringAt c).1] = false
    ∧ s.ringFault c ((s.ringAt c).2 + 16 * ((s.nextFetch c).toNat % s.rlen c)) = none :=
  ⟨1, one (runWith ctxUp (fun r => { r with st := .running, tail := 3 })), by decide +kernel⟩

theorem witness_DecodeMovesNothing :
    (∃ (c : Fin 64) (s : State) (n : BitVec 32) (w : BitVec 128) (rest : List (BitVec 32 × BitVec 128)),
      s.active c = true
      ∧ s.crossRuns = true
      ∧ (s.ctx c).fetched = (n, w) :: rest
      ∧ (s.ctx c).cur ≠ []
      ∧ s.decodeOpen c = true
      ∧ s.decodeRoom c (s.decode c n w) = true
      ∧ (∀ d, (s.ctx d).gen.flip ≠ .begun)
      ∧ s.fetchWaits c n = false)
    ∧ (∃ (c : Fin 64) (s : State) (n : BitVec 32) (w : BitVec 128) (rest : List (BitVec 32 × BitVec 128)),
      s.active c = true
      ∧ s.crossRuns = true
      ∧ (s.ctx c).fetched = (n, w) :: rest
      ∧ (s.ctx c).cur ≠ []
      ∧ s.decodeOpen c = true
      ∧ s.decodeRoom c (s.decode c n w) = true
      ∧ (∀ d, (s.ctx d).gen.flip ≠ .begun)
      ∧ s.fetchWaits c n = true) :=
  ⟨⟨1, one { ctxAt (cur (wordOf opNop 0)) with fetched := [(1, wordOf opNop 0)] }, 1, wordOf opNop 0, [], by
    refine ⟨?_, ?_, ?_, ?_, ?_, ?_, ?_, ?_⟩ <;> first | decide +kernel | exact no_flip _ ({ ctxAt (cur (wordOf opNop 0)) with fetched := [(1, wordOf opNop 0)] }) rfl (by decide +kernel)⟩,
   ⟨1, withReqs (one { ctxAt (cur (wordOf opNop 0)) with fetched := [(1, wordOf opNop 0)] }) [reqBy (.fetch 1 0 1 0) false], 1, wordOf opNop 0, [], by
    refine ⟨?_, ?_, ?_, ?_, ?_, ?_, ?_, ?_⟩ <;> first | decide +kernel | exact no_flip _ ({ ctxAt (cur (wordOf opNop 0)) with fetched := [(1, wordOf opNop 0)] }) rfl (by decide +kernel)⟩⟩

theorem witness_DecodeD1 :
    (∃ (w : BitVec 128),
      (opInfo (field w.toNat 127 120) = none
        ∨ ∃ o, opInfo (field w.toNat 127 120) = some o ∧ ∃ r ∈ o.reserved, field w.toNat r.1 r.2 ≠ 0))
    ∧ (∃ (w : BitVec 128),
      (opInfo (field w.toNat 127 120) = none
        ∨ ∃ o, opInfo (field w.toNat 127 120) = some o ∧ ∃ r ∈ o.reserved, field w.toNat r.1 r.2 ≠ 0)) :=
  ⟨⟨wordOf opNop 1, .inr ⟨⟨.c, [(119, 0)], []⟩, by decide +kernel⟩⟩,
   ⟨0, .inl (by decide +kernel)⟩⟩

theorem witness_DecodeOneAhead : ∃ (c : Fin 64) (s : State) (n : BitVec 32) (w : BitVec 128) (rest : List (BitVec 32 × BitVec 128)) (a : Cur) (b : Cur),
    (s.ctx c).fetched = (n, w) :: rest
    ∧ (s.ctx c).cur = [a, b]
    ∧ b.infoFmt = .d
    ∧ (s.decode c n w).infoFmt = .d :=
  ⟨1, one { ctxAt (cur (wordOf opPerm 0)) with cur := [cur (wordOf opPerm 0), cur (wordOf opPerm 0)], fetched := [(2, wordOf opPerm 0)] }, 2, wordOf opPerm 0, [], cur (wordOf opPerm 0), cur (wordOf opPerm 0), by decide +kernel⟩

theorem witness_NopRetires : ∃ (c : Fin 64) (s : State) (i : Cur),
    s.readyHead c opNop .ready = some i
    ∧ s.NothingDue c :=
  ⟨1, at_ (cur (wordOf opNop 0)), cur (wordOf opNop 0), by decide +kernel⟩

theorem witness_HaltStops :
    (∃ (c : Fin 64) (s : State) (i : Cur),
      s.readyHead c opHalt .ready = some i
      ∧ (s.ctx c).gen.abortBit = false
      ∧ bitAt i.word.toNat 119 = true)
    ∧ (∃ (c : Fin 64) (s : State) (i : Cur),
      s.readyHead c opHalt .ready = some i
      ∧ (s.ctx c).gen.abortBit = false
      ∧ bitAt i.word.toNat 119 = false) :=
  ⟨⟨1, at_ (cur (wordOf opHalt (2 ^ 119 + 5 * 2 ^ 103))), cur (wordOf opHalt (2 ^ 119 + 5 * 2 ^ 103)), by decide +kernel⟩,
   ⟨1, at_ (cur (wordOf opHalt 0)), cur (wordOf opHalt 0), by decide +kernel⟩⟩

theorem witness_SwaitTakes : ∃ (c : Fin 64) (s : State) (i : Cur) (o : Nat) (p : Nat),
    s.readyHead c opSwait .ready = some i
    ∧ s.NothingDue c
    ∧ s.semPair c i.sem = some (o, p)
    ∧ s.semWaiters o p i.half = []
    ∧ i.semCount ≤ (s.semGet o p i.half).toNat :=
  ⟨1, one (semWith (ctxAt (semCur opSwait)) 3 []), semCur opSwait, 1, 5, by decide +kernel⟩

theorem witness_SwaitWaits :
    (∃ (c : Fin 64) (s : State) (i : Cur) (o : Nat) (p : Nat),
      s.readyHead c opSwait .ready = some i
      ∧ s.NothingDue c
      ∧ s.semPair c i.sem = some (o, p)
      ∧ (s.semWaiters o p i.half ≠ [] ∨ (s.semGet o p i.half).toNat < i.semCount))
    ∧ (∃ (c : Fin 64) (s : State) (i : Cur) (o : Nat) (p : Nat),
      s.readyHead c opSwait .ready = some i
      ∧ s.NothingDue c
      ∧ s.semPair c i.sem = some (o, p)
      ∧ (s.semWaiters o p i.half ≠ [] ∨ (s.semGet o p i.half).toNat < i.semCount)) :=
  ⟨⟨1, one (semWith (ctxAt (semCur opSwait)) 2 []), semCur opSwait, 1, 5, by decide +kernel⟩,
   ⟨1, one (semWith (ctxAt (semCur opSwait)) 9 [⟨2, 5, true, 1⟩]), semCur opSwait, 1, 5, by decide +kernel⟩⟩

theorem witness_SwaitWakes : ∃ (c : Fin 64) (s : State) (i : Cur) (o : Nat) (p : Nat),
    s.waitHead c opSwait = some i
    ∧ s.NothingDue c
    ∧ s.waitsOn c i = some (o, p)
    ∧ s.waiterReady c o p i = true :=
  ⟨1, one (semWith (ctxAt (inPhase (semCur opSwait) .waiting)) 3 [⟨1, 5, true, 3⟩]), inPhase (semCur opSwait) .waiting, 1, 5, by decide +kernel⟩

theorem witness_SsignalAdds : ∃ (c : Fin 64) (s : State) (i : Cur) (o : Nat) (p : Nat),
    s.readyHead c opSsignal .ready = some i
    ∧ s.NothingDue c
    ∧ s.semPair c i.sem = some (o, p)
    ∧ (s.semGet o p i.half).toNat + i.semCount < 2 ^ 32 :=
  ⟨1, one (semWith (ctxAt (semCur opSsignal)) 2 []), semCur opSsignal, 1, 5, by decide +kernel⟩

theorem witness_SsignalOverflows : ∃ (c : Fin 64) (s : State) (i : Cur) (o : Nat) (p : Nat),
    s.readyHead c opSsignal .ready = some i
    ∧ (s.ctx c).gen.abortBit = false
    ∧ s.semPair c i.sem = some (o, p)
    ∧ 2 ^ 32 ≤ (s.semGet o p i.half).toNat + i.semCount :=
  ⟨1, one (semWith (ctxAt (semCur opSsignal)) 0xFFFFFFFD []), semCur opSsignal, 1, 5, by decide +kernel⟩

theorem witness_FenceCases :
    (∃ (c : Fin 64) (s : State) (i : Cur),
      s.readyHead c opFence .ready = some i
      ∧ s.NothingDue c
      ∧ ((bitAt i.word.toNat 118 = true → s.streamsDone c = true) ∧ (bitAt i.word.toNat 117 = true → s.writesDone c = true)))
    ∧ (∃ (c : Fin 64) (s : State) (i : Cur),
      s.readyHead c opFence .ready = some i
      ∧ s.NothingDue c
      ∧ bitAt i.word.toNat 118 = true ∧ s.streamsDone c = false) :=
  ⟨⟨1, at_ (cur (wordOf opFence (2 ^ 119 + 2 ^ 118))), cur (wordOf opFence (2 ^ 119 + 2 ^ 118)), by decide +kernel⟩,
   ⟨1, (at_ (cur (wordOf opFence (2 ^ 119 + 2 ^ 118)))).setCell 3 { Cell.reset with queues := [(2, { Queue.closed with st := .opened, owner := 1, blocks := [block2] })] }, cur (wordOf opFence (2 ^ 119 + 2 ^ 118)), by decide +kernel⟩⟩

theorem witness_RetireWaitsForPorts :
    (∃ (c : Fin 64) (s : State) (i : Cur),
      s.head c = some i
      ∧ s.running c = true
      ∧ i.phase = .moved
      ∧ i.is opCtxsave = false
      ∧ s.mayRetire c i = true ∧ s.NothingDue c)
    ∧ (∃ (c : Fin 64) (s : State) (i : Cur),
      s.head c = some i
      ∧ s.running c = true
      ∧ i.phase = .moved
      ∧ i.is opCtxsave = false
      ∧ s.mayRetire c i = false) :=
  ⟨⟨1, at_ (inPhase (cur (wordOf opPerm 0)) .moved), inPhase (cur (wordOf opPerm 0)) .moved, by decide +kernel⟩,
   ⟨1, withReqs (at_ (inPhase (cur (wordOf opPerm 0)) .moved)) [reqBy (.instr 1) false], inPhase (cur (wordOf opPerm 0)) .moved, by decide +kernel⟩⟩

theorem witness_GenOpens :
    (∃ (c : Fin 64) (s : State) (i : Cur),
      s.readyHead c opGen .ready = some i
      ∧ s.NothingDue c
      ∧ (s.ctx c).gen.abortBit = false
      ∧ (s.ctx c).gen.isOpen = false ∧ bitAt i.word.toNat 119 = false)
    ∧ (∃ (c : Fin 64) (s : State) (i : Cur),
      s.readyHead c opGen .ready = some i
      ∧ s.NothingDue c
      ∧ (s.ctx c).gen.abortBit = false
      ∧ (s.ctx c).gen.isOpen = true) :=
  ⟨⟨1, at_ (cur (wordOf opGen 0)), cur (wordOf opGen 0), by decide +kernel⟩,
   ⟨1, one (genOpen (ctxAt (cur (wordOf opGen 0)))), cur (wordOf opGen 0), by decide +kernel⟩⟩

theorem witness_CommitAbortWithoutGeneration :
    (∃ (c : Fin 64) (s : State) (i : Cur),
      s.readyHead c opCommit .ready = some i
      ∧ s.NothingDue c
      ∧ (s.ctx c).gen.isOpen = false
      ∧ (s.ctx c).gen.member ≠ .aborted
      ∧ bitAt i.word.toNat 119 = true)
    ∧ (∃ (c : Fin 64) (s : State) (i : Cur),
      s.readyHead c opAbort .ready = some i
      ∧ s.NothingDue c
      ∧ (s.ctx c).gen.isOpen = false) :=
  ⟨⟨1, at_ (cur (wordOf opCommit (2 ^ 119))), cur (wordOf opCommit (2 ^ 119)), by decide +kernel⟩,
   ⟨1, at_ (cur (wordOf opAbort 0)), cur (wordOf opAbort 0), by decide +kernel⟩⟩

theorem witness_AbortReleases :
    (∃ (c : Fin 64) (s : State) (i : Cur),
      s.readyHead c opAbort .ready = some i
      ∧ s.NothingDue c
      ∧ (s.ctx c).gen.isOpen = true
      ∧ (s.ctx c).gen.fab = false)
    ∧ (∃ (c : Fin 64) (s : State) (i : Cur),
      s.readyHead c opAbort .ready = some i
      ∧ s.NothingDue c
      ∧ (s.ctx c).gen.isOpen = true
      ∧ (s.ctx c).gen.fab = false
      ∧ s.recordsHeld c = true ∧ (s.ctx c).gen.abortBit = false) :=
  ⟨⟨1, one { genOpen (ctxAt (cur (wordOf opAbort 0))) with recs := [(0, { WinRec.clean with st := .dirty, ivs := [(2, 1)] })] }, cur (wordOf opAbort 0), by decide +kernel⟩,
   ⟨1, one { genOpen (ctxAt (cur (wordOf opAbort 0))) with recs := [(0, { WinRec.clean with st := .dirty, ivs := [(2, 1)] })], win := { ctxUp.win with cache := [(0, some { win0 with resident := false })] } }, cur (wordOf opAbort 0), by decide +kernel⟩⟩

theorem witness_FlipBegins :
    (∃ (c : Fin 64) (s : State) (i : Cur),
      s.readyHead c opCommit .ready = some i
      ∧ (s.ctx c).gen.isOpen = true
      ∧ (s.ctx c).gen.fab = false
      ∧ (s.ctx c).gen.member = .idle
      ∧ (s.ctx c).gen.writeSet ≠ [])
    ∧ (∃ (c : Fin 64) (s : State) (i : Cur),
      s.flipHead c .none = some i
      ∧ (s.ctx c).gen.abortBit = false)
    ∧ (∃ (c : Fin 64) (s : State) (i : Cur),
      s.flipHead c .none = some i
      ∧ (s.ctx c).gen.abortBit = true) :=
  ⟨⟨1, one (genOpen (ctxAt commitCur)), commitCur, by decide +kernel⟩,
   ⟨1, one (genOpen (ctxAt (inPhase commitCur .flipping))), inPhase commitCur .flipping, by decide +kernel⟩,
   ⟨1, one (genWith (genOpen (ctxAt (inPhase commitCur .flipping))) (fun g => { g with abortBit := true })), inPhase commitCur .flipping, by decide +kernel⟩⟩

theorem witness_FlipPointAdvances : ∃ (c : Fin 64) (s : State) (i : Cur),
    s.flipHead c .begun = some i
    ∧ (s.ctx c).gen.writeSet.Nodup :=
  ⟨1, one (genWith (genOpen (ctxAt (inPhase commitCur .flipping))) (fun g => { g with flip := .begun })), inPhase commitCur .flipping, by decide +kernel⟩

theorem witness_FlipCompletes :
    (∃ (c : Fin 64) (s : State) (i : Cur),
      s.flipHead c .point = some i
      ∧ s.NothingDue c
      ∧ s.tablePending c = false ∧ s.saveReady c = true ∧ s.crossRuns = true)
    ∧ (∃ (c : Fin 64) (s : State) (i : Cur),
      s.flipHead c .point = some i
      ∧ s.NothingDue c
      ∧ (s.tablePending c = true ∨ s.saveReady c = false ∨ s.crossRuns = false)) :=
  ⟨⟨1, one (genWith (genOpen (ctxAt (inPhase commitCur .flipping))) (fun g => { g with flip := .point })), inPhase commitCur .flipping, by decide +kernel⟩,
   ⟨1, one (genWith (genOpen (ctxAt (inPhase commitCur .flipping))) (fun g => { g with flip := .point, newGen := [(0, some 1)] })), inPhase commitCur .flipping, by decide +kernel⟩⟩

theorem witness_CatchupCleans :
    (∃ (c : Fin 64) (w : Fin 1024) (s : State),
      (s.winRec c w).st = .lag
      ∧ (s.winRec c w).paused = false
      ∧ (s.winRec c w).retry = false
      ∧ (s.winEff c w).resident = true
      ∧ s.outstanding (.catchup c w) = false ∧ s.pinnedAside c w = false ∧ (s.saveWindow c).resident = true)
    ∧ (∃ (c : Fin 64) (w : Fin 1024) (s : State),
      (s.winRec c w).st = .lag
      ∧ (s.winRec c w).paused = false
      ∧ (s.winRec c w).retry = false
      ∧ (s.winEff c w).resident = true
      ∧ s.outstanding (.catchup c w) = true) :=
  ⟨⟨1, 0, one { ctxUp with recs := [(0, lagRec)] }, by decide +kernel⟩,
   ⟨1, 0, withReqs (one { ctxUp with recs := [(0, lagRec)] }) [reqBy (.catchup 1 0) true], by decide +kernel⟩⟩

theorem witness_WinSyncReportsIdle :
    (∃ (c : Fin 64) (s : State),
      (s.ctx c).win.busy = true
      ∧ s.winQuiet c (s.ctx c).win.window.toNat (s.ctx c).win.all = true)
    ∧ (∃ (c : Fin 64) (s : State),
      (s.ctx c).win.busy = true
      ∧ s.winQuiet c (s.ctx c).win.window.toNat (s.ctx c).win.all = false) :=
  ⟨⟨1, one { ctxUp with win := { ctxUp.win with busy := true, since := 1 } }, by decide +kernel⟩,
   ⟨1, withReqs (one { ctxUp with win := { ctxUp.win with busy := true, since := 1 } }) [{ reqBy (.catchup 1 0) true with window := some (1, 0) }], by decide +kernel⟩⟩

theorem witness_CtxsaveWrites :
    (∃ (c : Fin 64) (s : State) (i : Cur),
      s.readyHead c opCtxsave .ready = some i
      ∧ (s.ctx c).gen.abortBit = false
      ∧ (s.saveWindow c).resident = true)
    ∧ (∃ (c : Fin 64) (s : State) (i : Cur),
      s.readyHead c opCtxsave .ready = some i
      ∧ (s.ctx c).gen.abortBit = false
      ∧ (s.saveWindow c).resident = false) :=
  ⟨⟨1, at_ (cur (wordOf opCtxsave 0)), cur (wordOf opCtxsave 0), by decide +kernel⟩,
   ⟨1, one { ctxAt (cur (wordOf opCtxsave 0)) with win := { ctxUp.win with cache := [(0, some { win0 with resident := false })] } }, cur (wordOf opCtxsave 0), by decide +kernel⟩⟩

theorem witness_SwitchOutReleases : ∃ (c : Fin 64) (g : Fin 768) (s : State),
    (s.cell g).owner = some c.val
    ∧ s.atBoundary c = true
    ∧ s.switchAllowed c g = true
    ∧ (s.saveWindow c).resident = true :=
  ⟨1, 3, (one ctxUp).setCell 3 cellOf1, by decide +kernel⟩

theorem witness_RestoreOwns : ∃ (c : Fin 64) (g : Fin 768) (s : State),
    (s.cell g).owner = none
    ∧ g.val ∈ (s.ctx c).spilled
    ∧ (s.saveWindow c).resident = true
    ∧ g.val < s.nCells
    ∧ s.cellDown g = false
    ∧ s.notParked = true
    ∧ (s.ctx c).run.pendFault = none
    ∧ (s.slice (g / 64)).testsHome (g % 64) = false
    ∧ s.swapsCell g = false :=
  ⟨1, 3, one { ctxUp with spilled := [3] }, by decide +kernel⟩

theorem witness_QuantumExpires : ∃ (c : Fin 64) (s : State),
    field (s.ctx c).cfg.sched.toNat 47 32 ≠ 0
    ∧ s.ownedCells c ≠ [] :=
  ⟨1, (one ctxUp).setCell 3 cellOf1, by decide +kernel⟩

theorem witness_WaitBoundTestsWaiterFirst :
    (∃ (c : Fin 64) (s : State) (i : Cur) (o : Nat) (p : Nat),
      s.waitHead c opSwait = some i
      ∧ s.waitsOn c i = some (o, p)
      ∧ (s.ctx c).gen.abortBit = false
      ∧ s.waiterReady c o p i = true)
    ∧ (∃ (c : Fin 64) (s : State) (i : Cur) (o : Nat) (p : Nat),
      s.waitHead c opSwait = some i
      ∧ s.waitsOn c i = some (o, p)
      ∧ (s.ctx c).gen.abortBit = false
      ∧ s.waiterReady c o p i = false) :=
  ⟨⟨1, one (semWith (ctxAt (inPhase (semCur opSwait) .waiting)) 3 [⟨1, 5, true, 3⟩]), inPhase (semCur opSwait) .waiting, 1, 5, by decide +kernel⟩,
   ⟨1, one (semWith (ctxAt (inPhase (semCur opSwait) .waiting)) 2 [⟨1, 5, true, 3⟩]), inPhase (semCur opSwait) .waiting, 1, 5, by decide +kernel⟩⟩

theorem witness_TileBecomesValid :
    (∃ (c : Fin 64) (s : State) (i : Cur) (t : TileRef) (ins : Instr),
      ((ins = .tload c ∧ s.Begins c opTload i ∧ t = i.fieldTile) ∨ (ins = .tmove c ∧ s.Begins c opTmove i ∧ t = i.moveDst))
      ∧ (fmtMx t.fmt = true → t.stile ≠ t.tile))
    ∧ (∃ (c : Fin 64) (s : State) (i : Cur) (t : TileRef) (ins : Instr),
      ((ins = .tload c ∧ s.Begins c opTload i ∧ t = i.fieldTile) ∨ (ins = .tmove c ∧ s.Begins c opTmove i ∧ t = i.moveDst))
      ∧ (fmtMx t.fmt = true → t.stile ≠ t.tile)) :=
  ⟨⟨1, at_ (curD opTload tileBits [(0, ten 1 0x80000 [32, 2, 1] [1, 32, 0] 0x20)]), curD opTload tileBits [(0, ten 1 0x80000 [32, 2, 1] [1, 32, 0] 0x20)], (curD opTload tileBits [(0, ten 1 0x80000 [32, 2, 1] [1, 32, 0] 0x20)]).fieldTile, .tload 1, by decide +kernel⟩,
   ⟨1, (at_ (curD opTmove moveBits [])).setCell 0 cellTile, curD opTmove moveBits [], (curD opTmove moveBits []).moveDst, .tmove 1, by decide +kernel⟩⟩

theorem witness_TrelEmpties : ∃ (c : Fin 64) (s : State) (i : Cur),
    s.Begins c opTrel i
    ∧ i.descs = []
    ∧ (∀ g ∈ i.cells, Mem.wf (s.cell g).mem = true) :=
  ⟨1, (at_ (curD opTrel (2 * 2 ^ 64) [])).setCell 0 cellTile, curD opTrel (2 * 2 ^ 64) [], by decide +kernel⟩

theorem witness_CopiesFinish :
    (∃ (c : Fin 64) (s : State) (i : Cur) (op : Nat) (ins : Instr),
      copyRow c op ins
      ∧ s.Begins c op i
      ∧ (op = opCvt → i.combinePath = false)
      ∧ i.hasStack = false)
    ∧ (∃ (c : Fin 64) (s : State) (i : Cur) (op : Nat) (ins : Instr),
      copyRow c op ins
      ∧ s.Begins c op i
      ∧ (op = opCvt → i.combinePath = false)
      ∧ i.hasStack = false)
    ∧ (∃ (c : Fin 64) (s : State) (i : Cur) (op : Nat) (ins : Instr),
      copyRow c op ins
      ∧ s.Begins c op i
      ∧ (op = opCvt → i.combinePath = false)
      ∧ i.hasStack = false)
    ∧ (∃ (c : Fin 64) (s : State) (i : Cur) (op : Nat) (ins : Instr),
      copyRow c op ins
      ∧ s.Begins c op i
      ∧ (op = opCvt → i.combinePath = false)
      ∧ i.hasStack = false)
    ∧ (∃ (c : Fin 64) (s : State) (i : Cur) (op : Nat) (ins : Instr),
      copyRow c op ins
      ∧ s.Begins c op i
      ∧ (op = opCvt → i.combinePath = false)
      ∧ i.hasStack = false)
    ∧ (∃ (c : Fin 64) (s : State) (i : Cur) (op : Nat) (ins : Instr),
      copyRow c op ins
      ∧ s.Begins c op i
      ∧ (op = opCvt → i.combinePath = false)
      ∧ i.hasStack = false)
    ∧ (∃ (c : Fin 64) (s : State) (i : Cur) (op : Nat) (ins : Instr),
      copyRow c op ins
      ∧ s.Begins c op i
      ∧ (op = opCvt → i.combinePath = false)
      ∧ i.hasStack = false)
    ∧ (∃ (c : Fin 64) (s : State) (i : Cur) (op : Nat) (ins : Instr),
      copyRow c op ins
      ∧ s.Begins c op i
      ∧ (op = opCvt → i.combinePath = false)) :=
  ⟨⟨1, (at_ (curD opTstore tileBits [(0, ten 1 0x80000 [32, 2] [1, 32] 0x20)])).setCell 0 cellTile, curD opTstore tileBits [(0, ten 1 0x80000 [32, 2] [1, 32] 0x20)], opTstore, .tstore 1, by decide +kernel⟩,
   ⟨1, (at_ (curD opTrans2d 0 [(0, src42), (1, dst24)])), curD opTrans2d 0 [(0, src42), (1, dst24)], opTrans2d, .trans2d 1, by decide +kernel⟩,
   ⟨1, (at_ (curD opPerm permBits [(0, src42), (1, dst24)])), curD opPerm permBits [(0, src42), (1, dst24)], opPerm, .perm 1, by decide +kernel⟩,
   ⟨1, (at_ (curD opRot (0xF * 2 ^ 35 + 2 ^ 13) [(0, src42), (1, dst42)])), curD opRot (0xF * 2 ^ 35 + 2 ^ 13) [(0, src42), (1, dst42)], opRot, .rot 1, by decide +kernel⟩,
   ⟨1, (at_ (curD opReblock 0 [(0, src42), (1, dst42)])), curD opReblock 0 [(0, src42), (1, dst42)], opReblock, .reblock 1, by decide +kernel⟩,
   ⟨1, (at_ (curD opAmax 0 [(0, src42)])), curD opAmax 0 [(0, src42)], opAmax, .amax 1, by decide +kernel⟩,
   ⟨1, (at_ (curD opCvt 0 [(0, src42), (1, { dst42 with fmt := 0x02, stride := [2, 8] })])), curD opCvt 0 [(0, src42), (1, { dst42 with fmt := 0x02, stride := [2, 8] })], opCvt, .cvt 1, by decide +kernel⟩,
   ⟨1, at_ (curD opPerm permBits [(0, src42), (1, ten 0 0 [2, 4] [1, 2] 0x20)]), curD opPerm permBits [(0, src42), (1, ten 0 0 [2, 4] [1, 2] 0x20)], opPerm, .perm 1, by decide +kernel⟩⟩

theorem witness_PermPlacesElements : ∃ (c : Fin 64) (s : State) (i : Cur) (a : TDesc) (d : TDesc),
    s.Begins c opPerm i
    ∧ i.descAt 0 = some a
    ∧ i.descAt 1 = some d
    ∧ i.descAt 4 = none
    ∧ i.tileAt 0 = none
    ∧ i.tileAt 1 = none
    ∧ a.space = 1
    ∧ d.space = 1
    ∧ i.cellAxis 0 = none
    ∧ i.cellAxis 1 = none
    ∧ a.fmt = d.fmt
    ∧ fmtMx d.f = false
    ∧ i.cells.Nodup
    ∧ i.pos = []
    ∧ a.rank = d.rank
    ∧ d.rank ≤ 8
    ∧ (∀ k, k < d.rank → i.axmap k < d.rank)
    ∧ (∀ k, k < d.rank → ∀ l, l < d.rank → i.axmap k = i.axmap l → k = l)
    ∧ (∀ x ∈ indices d.exts, ∀ y ∈ indices d.exts, x ≠ y → Loc.Apart (descLoc d none (fun _ => .cell 0) x) (descLoc d none (fun _ => .cell 0) y))
    ∧ (∀ x ∈ indices d.exts, ∀ y ∈ indices a.exts, Loc.Apart (descLoc d none (fun _ => .cell 0) x) (descLoc a none (fun _ => .cell 0) y))
    ∧ (∀ k, k < d.rank → d.e k = a.e (i.axmap k)) :=
  ⟨1, at_ (curD opPerm permBits [(0, src42), (1, dst24)]), curD opPerm permBits [(0, src42), (1, dst24)], src42, dst24, by decide +kernel⟩

theorem witness_RotIndexInverse : ∃ (n : Nat) (x : Nat),
    x < n :=
  ⟨5, 4, by decide +kernel⟩

theorem witness_WritesKeepNeighbours : ∃ (ws : List (Loc × Nat)),
    (∀ w ∈ ws, ∃ g, w.1.place = .cell g)
    ∧ ws.Pairwise (fun a b => Loc.Apart a.1 b.1) :=
  ⟨[(⟨.cell 0, 1, 4, 4⟩, 5), (⟨.cell 0, 1, 0, 4⟩, 6)], by simp [Loc.Apart]⟩

theorem witness_EncodeExactIsIdentity : ∃ (f : Nat) (k : FloatFmt) (w : Nat) (neg : Bool) (m : Nat) (e : Int),
    floatFmt f = some k
    ∧ w < 2 ^ fmtBits f
    ∧ decodeElem f w = .fin neg m e :=
  ⟨0x10, ⟨4, 3, 7, .nanOnly⟩, 0x38, false, 8, -3, by decide +kernel⟩

theorem witness_OverflowRows : ∃ (k : FloatFmt) (m : Nat) (e : Int),
    m ≠ 0
    ∧ roundCount .rne m e (k.quantum m e) ≠ 0
    ∧ roundCount .rtz m e (k.quantum m e) ≠ 0
    ∧ magLt k.maxFin.1 k.maxFin.2 (roundCount .rne m e (k.quantum m e)) (k.quantum m e) = true ∧ magLt k.maxFin.1 k.maxFin.2 m e = true :=
  ⟨⟨4, 3, 7, .nanOnly⟩, 1, 9, by decide +kernel⟩

theorem witness_RoundingModes : ∃ (m : Nat) (j : Nat),
    2 * (m % 2 ^ j) = 2 ^ j ∧ 0 < j :=
  ⟨6, 2, by decide +kernel⟩

theorem witness_IndexModes :
    (∃ (x : Int),
      x < 0)
    ∧ (∃ (x : Int) (n : Nat),
      (n : Int) ≤ x ∧ 0 ≤ x)
    ∧ (∃ (x : Int) (n : Nat),
      0 ≤ x ∧ x < n) :=
  ⟨⟨-1, by decide +kernel⟩,
   ⟨4, 4, by decide +kernel⟩,
   ⟨3, 4, by decide +kernel⟩⟩

theorem witness_BucketOutputs : ∃ (keys : List (Option Nat)) (b : Nat),
    (∀ k ∈ keys, ∀ x, k = some x → x < b) :=
  ⟨[some 1, none, some 0, some 1], 2, by simp⟩

theorem witness_SortIsStable : ∃ (l : List (Sys2Proof.Num × Nat)),
    (∀ a ∈ l, ∀ s, a.1 ≠ .free s)
    ∧ l.Pairwise (fun a b => a.2 < b.2) :=
  ⟨[(.fin false 3 0, 0), (.fin true 1 0, 1), (.fin false 3 0, 2)], by simp⟩

theorem witness_GatherSortkCases :
    (∃ (c : Fin 64) (s : State) (i : Cur),
      s.Begins c opGather i
      ∧ (s.ctx c).gen.abortBit = false
      ∧ (let left := fun (w : Nat) => decide (i.pos.getD 1 0 ≤ w)
      (s.begun c i).1.gatherFault c (s.begun c i).2 0 left = none))
    ∧ (∃ (c : Fin 64) (s : State) (i : Cur),
      s.Begins c opGather i
      ∧ (s.ctx c).gen.abortBit = false
      ∧ (let left := fun (w : Nat) => decide (i.pos.getD 1 0 ≤ w)
      (s.begun c i).1.gatherFault c (s.begun c i).2 0 left ≠ none))
    ∧ (∃ (c : Fin 64) (s : State) (i : Cur),
      s.Begins c opSortk i
      ∧ (i.slotExts 0).getD 0 0 ≤ 4096)
    ∧ (∃ (c : Fin 64) (s : State) (i : Cur),
      s.Begins c opSortk i
      ∧ 4096 < (i.slotExts 0).getD 0 0) :=
  ⟨⟨1, at_ (curD opGather 0 [(0, vec 0x80000 4 0x20), (1, vec 0x81000 2 0x20), (2, vec 0x82000 2 0x20)]), curD opGather 0 [(0, vec 0x80000 4 0x20), (1, vec 0x81000 2 0x20), (2, vec 0x82000 2 0x20)], by decide +kernel⟩,
   ⟨1, (at_ (curD opGather 0 [(0, vec 0x80000 4 0x20), (1, vec 0x81000 2 0x20), (2, vec 0x82000 2 0x20)])).setCell 0 { Cell.reset with mem := Mem.blank.set 0x81001 9 }, curD opGather 0 [(0, vec 0x80000 4 0x20), (1, vec 0x81000 2 0x20), (2, vec 0x82000 2 0x20)], by decide +kernel⟩,
   ⟨1, at_ (curD opSortk 0 [(0, vec 0x80000 4 0x20), (1, vec 0x81000 4 0x01)]), curD opSortk 0 [(0, vec 0x80000 4 0x20), (1, vec 0x81000 4 0x01)], by decide +kernel⟩,
   ⟨1, at_ (curD opSortk 0 [(0, vec 0x80000 5000 0x20), (1, vec 0x90000 4 0x01)]), curD opSortk 0 [(0, vec 0x80000 5000 0x20), (1, vec 0x90000 4 0x01)], by decide +kernel⟩⟩

theorem witness_IndexPhasesBegin :
    (∃ (c : Fin 64) (s : State) (i : Cur),
      s.Begins c opScatter i
      ∧ (i.recs = none → (s.begun c i).1.gatherFault c (s.begun c i).2 2 (fun _ => true) = none)
      ∧ i.hasStack = false ∧ i.combine ≠ 0)
    ∧ (∃ (c : Fin 64) (s : State) (i : Cur),
      s.Begins c opScatter i
      ∧ (i.recs = none → (s.begun c i).1.gatherFault c (s.begun c i).2 2 (fun _ => true) = none)
      ∧ i.hasStack = true)
    ∧ (∃ (c : Fin 64) (s : State) (i : Cur),
      s.Begins c opBucket i
      ∧ (i.step = 0 → (s.begun c i).1.gatherFault c (s.begun c i).2 0 (fun _ => true) = none))
    ∧ (∃ (c : Fin 64) (s : State) (i : Cur),
      s.Begins c opCvt i
      ∧ i.combinePath = true
      ∧ i.slotSpace 1 = 1)
    ∧ (∃ (c : Fin 64) (s : State) (i : Cur),
      s.Begins c opCvt i
      ∧ i.combinePath = true
      ∧ i.slotSpace 1 ≠ 1) :=
  ⟨⟨1, at_ (curD opScatter (2 * 2 ^ 39) [(0, vec 0x80000 2 0x20), (1, vec 0x81000 2 0x20), (2, vec 0x82000 4 0x20)]), curD opScatter (2 * 2 ^ 39) [(0, vec 0x80000 2 0x20), (1, vec 0x81000 2 0x20), (2, vec 0x82000 4 0x20)], by decide +kernel⟩,
   ⟨1, at_ (curD opScatter 0 [(0, vec 0x80000 2 0x20), (1, vec 0x81000 2 0x20), (2, { vec 0x82000 4 0x20 with space := 0 })]), curD opScatter 0 [(0, vec 0x80000 2 0x20), (1, vec 0x81000 2 0x20), (2, { vec 0x82000 4 0x20 with space := 0 })], by decide +kernel⟩,
   ⟨1, at_ (curD opBucket (4 * 2 ^ 10) [(0, vec 0x80000 2 0x20), (1, vec 0x81000 2 0x01), (2, vec 0x82000 2 0x01), (3, vec 0x83000 4 0x01), (4, { vec 0x0 64 0x20 with space := 0 })]), curD opBucket (4 * 2 ^ 10) [(0, vec 0x80000 2 0x20), (1, vec 0x81000 2 0x01), (2, vec 0x82000 2 0x01), (3, vec 0x83000 4 0x01), (4, { vec 0x0 64 0x20 with space := 0 })], by decide +kernel⟩,
   ⟨1, at_ (curD opCvt (3 * 2 ^ 44) [(0, vec 0x80000 2 0x20), (1, { vec 0x82000 2 0x20 with stride := [0] })]), curD opCvt (3 * 2 ^ 44) [(0, vec 0x80000 2 0x20), (1, { vec 0x82000 2 0x20 with stride := [0] })], by decide +kernel⟩,
   ⟨1, at_ (curD opCvt (3 * 2 ^ 44) [(0, vec 0x80000 2 0x20), (1, { vec 0x82000 2 0x20 with stride := [0], space := 0 })]), curD opCvt (3 * 2 ^ 44) [(0, vec 0x80000 2 0x20), (1, { vec 0x82000 2 0x20 with stride := [0], space := 0 })], by decide +kernel⟩⟩

theorem witness_PhaseBarrier :
    (∃ (c : Fin 64) (s : State) (i : Cur),
      s.movingHead c = some i
      ∧ (s.ctx c).gen.abortBit = false
      ∧ s.resident c i = true ∧ i.is opSortk = false ∧ i.step < i.steps ∧ s.phaseFault c i = none)
    ∧ (∃ (c : Fin 64) (s : State) (i : Cur),
      s.movingHead c = some i
      ∧ (s.ctx c).gen.abortBit = false
      ∧ s.resident c i = true ∧ i.is opSortk = false ∧ i.steps ≤ i.step)
    ∧ (∃ (c : Fin 64) (s : State) (i : Cur),
      s.movingHead c = some i
      ∧ (s.ctx c).gen.abortBit = false
      ∧ s.resident c i = false)
    ∧ (∃ (c : Fin 64) (s : State) (i : Cur),
      s.movingHead c = some i
      ∧ (s.ctx c).gen.abortBit = false
      ∧ s.resident c i = true ∧ i.is opSortk = true ∧ i.step + 1 < i.steps)
    ∧ (∃ (c : Fin 64) (s : State) (i : Cur),
      s.movingHead c = some i
      ∧ (s.ctx c).gen.abortBit = false
      ∧ s.resident c i = true ∧ i.is opSortk = true ∧ i.steps ≤ i.step + 1)
    ∧ (∃ (c : Fin 64) (s : State) (i : Cur),
      s.movingHead c = some i
      ∧ (s.ctx c).gen.abortBit = false
      ∧ s.resident c i = true ∧ i.is opSortk = false ∧ i.step < i.steps ∧ s.phaseFault c i ≠ none)
    ∧ (∃ (c : Fin 64) (s : State) (i : Cur),
      s.movingHead c = some i
      ∧ (s.ctx c).gen.abortBit = false
      ∧ s.upsetSlice i = some 0) :=
  ⟨⟨1, at_ ({ curD opBucket (4 * 2 ^ 10) [(0, vec 0x80000 2 0x20), (1, vec 0x81000 2 0x01), (2, vec 0x82000 2 0x01), (3, vec 0x83000 4 0x01), (4, { vec 0x0 64 0x20 with space := 0 })] with phase := .moving, step := 0, steps := 3 }), { curD opBucket (4 * 2 ^ 10) [(0, vec 0x80000 2 0x20), (1, vec 0x81000 2 0x01), (2, vec 0x82000 2 0x01), (3, vec 0x83000 4 0x01), (4, { vec 0x0 64 0x20 with space := 0 })] with phase := .moving, step := 0, steps := 3 }, by decide +kernel⟩,
   ⟨1, at_ ({ curD opBucket (4 * 2 ^ 10) [(0, vec 0x80000 2 0x20), (1, vec 0x81000 2 0x01), (2, vec 0x82000 2 0x01), (3, vec 0x83000 4 0x01), (4, { vec 0x0 64 0x20 with space := 0 })] with phase := .moving, step := 3, steps := 3 }), { curD opBucket (4 * 2 ^ 10) [(0, vec 0x80000 2 0x20), (1, vec 0x81000 2 0x01), (2, vec 0x82000 2 0x01), (3, vec 0x83000 4 0x01), (4, { vec 0x0 64 0x20 with space := 0 })] with phase := .moving, step := 3, steps := 3 }, by decide +kernel⟩,
   ⟨1, one { ctxAt ({ curD opBucket (4 * 2 ^ 10) [(0, vec 0x80000 2 0x20), (1, vec 0x81000 2 0x01), (2, vec 0x82000 2 0x01), (3, vec 0x83000 4 0x01), (4, { vec 0x0 64 0x20 with space := 0 })] with phase := .moving, step := 1, steps := 3 }) with win := { ctxUp.win with cache := [(0, some { win0 with resident := false })] } }, { curD opBucket (4 * 2 ^ 10) [(0, vec 0x80000 2 0x20), (1, vec 0x81000 2 0x01), (2, vec 0x82000 2 0x01), (3, vec 0x83000 4 0x01), (4, { vec 0x0 64 0x20 with space := 0 })] with phase := .moving, step := 1, steps := 3 }, by decide +kernel⟩,
   ⟨1, at_ ({ curD opSortk 0 [(0, vec 0x80000 5000 0x20), (1, vec 0x90000 4 0x01)] with phase := .moving, step := 0, steps := 6 }), { curD opSortk 0 [(0, vec 0x80000 5000 0x20), (1, vec 0x90000 4 0x01)] with phase := .moving, step := 0, steps := 6 }, by decide +kernel⟩,
   ⟨1, at_ ({ curD opSortk 0 [(0, vec 0x80000 5000 0x20), (1, vec 0x90000 4 0x01)] with phase := .moving, step := 5, steps := 6 }), { curD opSortk 0 [(0, vec 0x80000 5000 0x20), (1, vec 0x90000 4 0x01)] with phase := .moving, step := 5, steps := 6 }, by decide +kernel⟩,
   ⟨1, at_ ({ curD opScatter 0 [(0, vec 0x80000 2 0x20), (1, vec 0x81000 2 0x20), (2, { vec 0x82000 4 0x20 with space := 0 })] with phase := .moving, step := 4, steps := 5 }), { curD opScatter 0 [(0, vec 0x80000 2 0x20), (1, vec 0x81000 2 0x20), (2, { vec 0x82000 4 0x20 with space := 0 })] with phase := .moving, step := 4, steps := 5 }, by decide +kernel⟩,
   ⟨1, (at_ ({ curD opBucket (4 * 2 ^ 10) [(0, vec 0x80000 2 0x20), (1, vec 0x81000 2 0x01), (2, vec 0x82000 2 0x01), (3, vec 0x83000 4 0x01), (4, { vec 0x0 64 0x20 with space := 0 })] with phase := .moving, step := 0, steps := 3 })).updRegion 0 (fun r => { r with upset := [5] }), { curD opBucket (4 * 2 ^ 10) [(0, vec 0x80000 2 0x20), (1, vec 0x81000 2 0x01), (2, vec 0x82000 2 0x01), (3, vec 0x83000 4 0x01), (4, { vec 0x0 64 0x20 with space := 0 })] with phase := .moving, step := 0, steps := 3 }, by decide +kernel⟩⟩

theorem witness_EmptyMovesNothing : ∃ (c : Fin 64) (s : State) (i : Cur) (op : Nat) (ins : Instr),
    (copyRow c op ins ∨ (op = opTload ∧ ins = .tload c) ∨ (op = opGather ∧ ins = .gather c) ∨ (op = opScatter ∧ ins = .scatter c)
      ∨ (op = opBucket ∧ ins = .bucket c) ∨ (op = opSortk ∧ ins = .sortk c))
    ∧ s.readyHead c op .ready = some i
    ∧ i.anyEmpty = true :=
  ⟨1, at_ (curD opPerm permBits [(0, ten 1 0x80000 [4, 0] [1, 4] 0x20), (1, ten 1 0x90000 [0, 4] [1, 2] 0x20)]), curD opPerm permBits [(0, ten 1 0x80000 [4, 0] [1, 4] 0x20), (1, ten 1 0x90000 [0, 4] [1, 2] 0x20)], opPerm, .perm 1, by decide +kernel⟩

theorem witness_HaltPointStops :
    (∃ (c : Fin 64) (s : State) (i : Cur) (op : Nat) (ins : Instr),
      (copyRow c op ins ∨ (op = opTload ∧ ins = .tload c))
      ∧ s.Begins c op i
      ∧ i.hasHaltPoint = true
      ∧ (op = opCvt → i.combinePath = false)
      ∧ (s.ctx c).run.stopReq = true
      ∧ (s.ctx c).gen.abortBit = false)
    ∧ (∃ (c : Fin 64) (s : State) (i : Cur) (op : Nat) (ins : Instr),
      (copyRow c op ins ∨ (op = opTload ∧ ins = .tload c))
      ∧ s.Begins c op i
      ∧ i.hasHaltPoint = true
      ∧ (op = opCvt → i.combinePath = false)
      ∧ (s.ctx c).run.stopReq = true
      ∧ (s.ctx c).gen.abortBit = false) :=
  ⟨⟨1, stopping (curD opTload tileBits [(0, ten 1 0x80000 [32, 2, 1] [1, 32, 0] 0x20)]), curD opTload tileBits [(0, ten 1 0x80000 [32, 2, 1] [1, 32, 0] 0x20)], opTload, .tload 1, by decide +kernel⟩,
   ⟨1, stopping (curD opPerm permBits [(0, src42), (1, ten 0 0 [2, 4] [1, 2] 0x20)]), curD opPerm permBits [(0, src42), (1, ten 0 0 [2, 4] [1, 2] 0x20)], opPerm, .perm 1, by decide +kernel⟩⟩

theorem witness_SopenOpensQueues : ∃ (c : Fin 64) (s : State) (i : Cur) (d : SDesc),
    s.Begins c opSopen i
    ∧ i.stream = some d
    ∧ s.NothingDue c :=
  ⟨1, at_ ({ curD opSopen (2 * 2 ^ 48 + 2 ^ 42) [] with stream := some { SDesc.none with depth := 4 } }), { curD opSopen (2 * 2 ^ 48 + 2 ^ 42) [] with stream := some { SDesc.none with depth := 4 } }, { SDesc.none with depth := 4 }, by decide +kernel⟩

theorem witness_SblockAppendsOrWaits :
    (∃ (c : Fin 64) (s : State) (i : Cur) (d : TDesc),
      s.Begins c opSblock i
      ∧ i.descAt 0 = some d
      ∧ s.NothingDue c
      ∧ i.cells.Nodup
      ∧ s.queueRoom i = true)
    ∧ (∃ (c : Fin 64) (s : State) (i : Cur) (d : TDesc),
      s.Begins c opSblock i
      ∧ i.descAt 0 = some d
      ∧ s.NothingDue c
      ∧ i.cells.Nodup
      ∧ s.queueRoom i = false) :=
  ⟨⟨1, withQ (ctxAt (curD opSblock (2 * 2 ^ 44) [(0, vec 0x80000 256 0x20)])) openQ Chan.idle, curD opSblock (2 * 2 ^ 44) [(0, vec 0x80000 256 0x20)], vec 0x80000 256 0x20, by decide +kernel⟩,
   ⟨1, withQ (ctxAt (curD opSblock (2 * 2 ^ 44) [(0, vec 0x80000 256 0x20)])) { openQ with blocks := [block2, block2] } Chan.idle, curD opSblock (2 * 2 ^ 44) [(0, vec 0x80000 256 0x20)], vec 0x80000 256 0x20, by decide +kernel⟩⟩

theorem witness_ScloseByState :
    (∃ (c : Fin 64) (s : State) (i : Cur),
      s.Begins c opSclose i
      ∧ s.NothingDue c
      ∧ i.cells.Nodup
      ∧ (s.queue 0 2).st = .opened ∧ bitAt i.word.toNat 91 = false)
    ∧ (∃ (c : Fin 64) (s : State) (i : Cur),
      s.Begins c opSclose i
      ∧ s.NothingDue c
      ∧ i.cells.Nodup
      ∧ bitAt i.word.toNat 91 = true)
    ∧ (∃ (c : Fin 64) (s : State) (i : Cur),
      s.Begins c opSclose i
      ∧ s.NothingDue c
      ∧ i.cells.Nodup
      ∧ (s.queue 0 2).st = .halted)
    ∧ (∃ (c : Fin 64) (s : State) (i : Cur),
      s.Begins c opSclose i
      ∧ s.NothingDue c
      ∧ i.cells.Nodup
      ∧ (s.queue 0 2).st = .closed) :=
  ⟨⟨1, withQ (ctxAt (curD opSclose (2 * 2 ^ 92 + 0) [])) openQ Chan.idle, curD opSclose (2 * 2 ^ 92 + 0) [], by decide +kernel⟩,
   ⟨1, withQ (ctxAt (curD opSclose (2 * 2 ^ 92 + 2 ^ 91) [])) openQ Chan.idle, curD opSclose (2 * 2 ^ 92 + 2 ^ 91) [], by decide +kernel⟩,
   ⟨1, withQ (ctxAt (curD opSclose (2 * 2 ^ 92 + 0) [])) ({ openQ with st := .halted }) Chan.idle, curD opSclose (2 * 2 ^ 92 + 0) [], by decide +kernel⟩,
   ⟨1, withQ (ctxAt (curD opSclose (2 * 2 ^ 92 + 0) [])) Queue.closed Chan.idle, curD opSclose (2 * 2 ^ 92 + 0) [], by decide +kernel⟩⟩

theorem witness_CarouselStarts : ∃ (c : Fin 64) (s : State) (i : Cur) (d : TDesc),
    s.Begins c opCarousel i
    ∧ i.descAt 0 = some d
    ∧ s.NothingDue c
    ∧ i.cells.Nodup :=
  ⟨1, withQ (ctxAt (curD opCarousel (2 * 2 ^ 48 + 3 * 2 ^ 26) [(0, vec 0x80000 128 0x20)])) openQ Chan.idle, curD opCarousel (2 * 2 ^ 48 + 3 * 2 ^ 26) [(0, vec 0x80000 128 0x20)], vec 0x80000 128 0x20, by decide +kernel⟩

theorem witness_CarouselRotates :
    (∃ (n : Fin 12) (q : BitVec 4) (s : State) (k : Carousel),
      n.val < s.nSlices
      ∧ s.rotationReady n q.toNat = true
      ∧ (∀ p, p < 64 → (s.queue (64 * n + p) q.toNat).carousel = some k)
      ∧ (s.region n).upset = []
      ∧ k.endless = false ∧ k.left = 1)
    ∧ (∃ (n : Fin 12) (q : BitVec 4) (s : State) (k : Carousel),
      n.val < s.nSlices
      ∧ s.rotationReady n q.toNat = true
      ∧ (∀ p, p < 64 → (s.queue (64 * n + p) q.toNat).carousel = some k)
      ∧ (s.region n).upset = []
      ∧ (1 < k.left ∧ (∀ p, p < 64 → (s.queue (64 * n + p) q.toNat).st ≠ .closing ∧ (s.queue (64 * n + p) q.toNat).closeRec = false))) :=
  ⟨⟨0, 2, ringOf64, rotor, by decide +kernel⟩,
   ⟨0, 2, { ringOf64 with cells := (List.range 64).map (fun g => (g, cellQ { openQ with carousel := some { rotor with left := 2 } } Chan.idle)) }, { rotor with left := 2 }, by decide +kernel⟩⟩

theorem witness_ClosingQueueCloses :
    (∃ (g : Fin 768) (q : BitVec 4) (s : State),
      (s.queue g q.toNat).st = .closing
      ∧ (s.queue g q.toNat).blocks = [] ∧ (s.queue g q.toNat).carousel = none)
    ∧ (∃ (g : Fin 768) (q : BitVec 4) (s : State),
      (s.queue g q.toNat).st = .closing
      ∧ (s.queue g q.toNat).blocks ≠ []) :=
  ⟨⟨0, 2, withQ ctxUp { openQ with st := .closing } Chan.idle, by decide +kernel⟩,
   ⟨0, 2, withQ ctxUp { openQ with st := .closing, blocks := [block2] } Chan.idle, by decide +kernel⟩⟩

theorem witness_GrantIsMostUrgent :
    (∃ (s : State) (g : Nat) (r : Resource),
      (∀ q, q < 16 → s.wants g q r = true → 0 < (s.queue g q).rateNum s.beatPeriod)
      ∧ s.grant g r = some 2)
    ∧ (∃ (s : State) (g : Nat) (r : Resource),
      (∀ q, q < 16 → s.wants g q r = true → 0 < (s.queue g q).rateNum s.beatPeriod)
      ∧ s.grant g r = none) :=
  ⟨⟨withQ ctxUp sendQ Chan.idle, 0, .edge, by decide +kernel⟩,
   ⟨withQ ctxUp openQ Chan.idle, 0, .edge, by decide +kernel⟩⟩

theorem witness_TokenSent : ∃ (g : Fin 768) (s : State) (q : Nat) (b : Block) (k : Nat),
    s.grant g .edge = some q
    ∧ (s.queue g q).sd.steer = 0
    ∧ (s.queue g q).sendAt = some (b, k) :=
  ⟨0, withQ ctxUp sendQ Chan.idle, 2, block2, 0, by decide +kernel⟩

theorem witness_DataTokenLands :
    (∃ (g : Fin 768) (t : Token) (s : State),
      t.wf = true
      ∧ s.tap.pinsHeld = false
      ∧ s.heldBack g = false
      ∧ ((s.cell g).chan t.chan.toNat).stale = 0
      ∧ (let x := s.queue g t.chan.toNat
      x.st = .opened ∧ x.dir = true ∧ 0 < ((s.cell g).chan t.chan.toNat).granted ∧ t.epoch = epochOf s g ∧ s.inLayer x = true ∧ 0 < x.ring))
    ∧ (∃ (g : Fin 768) (t : Token) (s : State),
      t.wf = true
      ∧ s.tap.pinsHeld = false
      ∧ s.heldBack g = false
      ∧ ((s.cell g).chan t.chan.toNat).stale = 0
      ∧ ((s.cell g).chan t.chan.toNat).granted = 0) :=
  ⟨⟨0, tok, withQ ctxUp ringQ { Chan.idle with granted := 1 }, by decide +kernel⟩,
   ⟨0, tok, withQ ctxUp ringQ Chan.idle, by decide +kernel⟩⟩

theorem witness_ControlTokenWaits :
    (∃ (g : Fin 768) (t : CtlToken) (s : State),
      s.tap.pinsHeld = false
      ∧ s.heldBack g = false
      ∧ (let x := s.queue g t.chan.toNat
      (let k := (s.cell g).chan t.chan.toNat
      x.st = .opened ∧ t.epoch = epochOf s g ∧ x.sd.steer ≠ 0 ∧ t.tag = x.nextTag + BitVec.ofNat 16 k.ctl.length ∧ k.ctl.length < 16)))
    ∧ (∃ (g : Fin 768) (t : CtlToken) (s : State),
      s.tap.pinsHeld = false
      ∧ s.heldBack g = false
      ∧ (let x := s.queue g t.chan.toNat
      x.st = .closed)) :=
  ⟨⟨0, ⟨2, 0, 0, 1⟩, withQ ctxUp { openQ with sd := { SDesc.none with steer := 1 } } Chan.idle, by decide +kernel⟩,
   ⟨0, ⟨2, 0, 0, 1⟩, withQ ctxUp Queue.closed Chan.idle, by decide +kernel⟩⟩

theorem witness_CreditsReturned :
    (∃ (g : Fin 768) (chan : BitVec 4) (n : BitVec 4) (s : State),
      s.tap.pinsHeld = false
      ∧ (let k := (s.cell g).chan chan.toNat
      n.toNat + 1 ≤ k.held))
    ∧ (∃ (g : Fin 768) (chan : BitVec 4) (n : BitVec 4) (s : State),
      s.tap.pinsHeld = false
      ∧ (let k := (s.cell g).chan chan.toNat
      k.held < n.toNat + 1)) :=
  ⟨⟨0, 2, 0, withQ ctxUp openQ { Chan.idle with held := 1 }, by decide +kernel⟩,
   ⟨0, 2, 1, withQ ctxUp openQ { Chan.idle with held := 1 }, by decide +kernel⟩⟩

theorem witness_FenceTakesCellDown :
    (∃ (g : Fin 768) (s : State),
      g.val < s.nCells
      ∧ s.cellDown g = false
      ∧ (s.slice (g / 64)).spareOf (g % 64) = none
      ∧ (1 : Nat) ∈ s.usersOf g ∧ (s.ctx 1).run.st ≠ .stopped ∧ (s.ctx 1).gen.flip = .none ∧ (s.ctx 1).gen.abortBit = false)
    ∧ (∃ (g : Fin 768) (s : State),
      g.val < s.nCells
      ∧ s.cellDown g = false
      ∧ (s.slice (g / 64)).spareOf (g % 64) = none
      ∧ (1 : Nat) ∈ s.usersOf g ∧ (s.ctx 1).run.resumable = true ∧ (s.ctx 1).gen.flip = .none ∧ (s.ctx 1).gen.abortBit = false ∧ bitAt s.glb.fault.toNat 0 = true) :=
  ⟨⟨0, withQ (ctxAt (curD opPerm permBits [(0, src42), (1, dst24)])) openQ Chan.idle, by decide +kernel⟩,
   ⟨0, { withQ (runWith (ctxAt (curD opPerm permBits [(0, src42), (1, dst24)])) (fun r => { r with st := .stopped, resumable := true })) openQ Chan.idle with glb := { up.glb with fault := 1 } }, by decide +kernel⟩⟩

theorem witness_PairTimeoutFaults : ∃ (g : Fin 768) (chan : BitVec 4) (s : State),
    (s.queue g chan.toNat).st = .opened
    ∧ (s.queue g chan.toNat).dir = false
    ∧ (s.queue g chan.toNat).sd.steer = 1
    ∧ (s.frontSel g chan.toNat).isSome ≠ s.frontReady g chan.toNat :=
  ⟨0, 2, withQ ctxUp { sendQ with sd := { SDesc.none with steer := 1 } } Chan.idle, by decide +kernel⟩

theorem witness_BlockSignalledOnce : ∃ (c : Fin 64) (q : BitVec 4) (id : Nat) (s : State) (g : Nat) (ok : Bool) (rest : List (Nat × Bool)) (b : Block) (o : Nat) (p : Nat),
    s.blockCells c q.toNat id = (g, ok) :: rest
    ∧ (s.blockCells c q.toNat id).all (·.2) = true
    ∧ s.awaitsSlice c q.toNat id = false
    ∧ ((s.blockCells c q.toNat id).map (·.1)).Nodup
    ∧ (s.queue g q.toNat).blocks.head? = some b
    ∧ (s.blockCells c q.toNat id).length = b.cells
    ∧ s.semPair c (s.queue g q.toNat).sem = some (o, p)
    ∧ (s.semGet o p (!(s.queue g q.toNat).dir)).toNat + 1 < 2 ^ 32 :=
  ⟨1, 2, 0, withQ ctxUp ({ openQ with blocks := [{ block2 with fetched := 2, done := 2 }] }) Chan.idle, 0, true, [], { block2 with fetched := 2, done := 2 }, 1, 0, by decide +kernel⟩

theorem witness_RateMeasured : ∃ (g : Fin 768) (q : BitVec 4) (s : State),
    (s.queue g q.toNat).st ≠ .closed :=
  ⟨0, 2, withQ ctxUp { openQ with counted := 5 } Chan.idle, by decide +kernel⟩

theorem witness_BeatEdgeIssuesOrHolds :
    (∃ (l : List (Nat × BitVec 16)) (s : State),
      s.ready = true
      ∧ s.beatOn = true
      ∧ s.crossRuns = true
      ∧ s.readyZero l = [])
    ∧ (∃ (l : List (Nat × BitVec 16)) (s : State),
      s.ready = true
      ∧ s.beatOn = true
      ∧ s.crossRuns = true
      ∧ s.readyZero l ≠ []) :=
  ⟨⟨[], { one ctxUp with time := { up.time with valid := true } }, by decide +kernel⟩,
   ⟨[(0, 4)], ({ one ctxUp with time := { up.time with valid := true } }).setCell 0 (cellQ openQ Chan.idle), by decide +kernel⟩⟩

theorem witness_StretchTimeoutFaults : ∃ (s : State),
    s.beatOn = true
    ∧ s.beat.held = true
    ∧ (∃ e ∈ s.beat.notReady, bitAt e.2.toNat 2 = true ∧ (s.queue e.1 2).st ≠ .closed) :=
  ⟨{ ({ one ctxUp with time := { up.time with valid := true } }).setCell 0 (cellQ openQ Chan.idle) with beat := { up.beat with held := true, notReady := [(0, 4)] } }, by decide +kernel⟩

theorem witness_LayerAdvances : ∃ (s : State),
    s.openQueues ≠ []
    ∧ (∀ e ∈ s.openQueues, e.2.2.sd.layer ≠ s.beat.layer) :=
  ⟨withQ ctxUp { openQ with sd := { SDesc.none with layer := 3 } } Chan.idle, by decide +kernel⟩

theorem witness_UpsetHoldsRotation : ∃ (n : Fin 12) (q : BitVec 4) (s : State) (f : Nat),
    n.val < s.nSlices
    ∧ s.rotationReady n q.toNat = true
    ∧ (s.region n).upset.head? = some f :=
  ⟨0, 2, (ringOf64.updRegion 0 (fun r => { r with upset := [5] })), 5, by decide +kernel⟩

theorem witness_TickAdvancesTime :
    (∃ (s : State),
      s.pending = []
      ∧ s.fab.heldWrites = []
      ∧ s.fab.resolving = []
      ∧ s.pwr.step ≠ 0 ∧ 0 ≤ (s.correctErrors.increment : Int) + s.correctErrors.adjust s.correctErrors.increment)
    ∧ (∃ (s : State),
      s.pending = []
      ∧ s.fab.heldWrites = []
      ∧ s.fab.resolving = []
      ∧ s.pwr.step = 0)
    ∧ (∃ (s : State),
      s.pending = []
      ∧ s.fab.heldWrites = []
      ∧ s.fab.resolving = []
      ∧ s.pwr.step ≠ 0 ∧ s.correctErrors.tick.inSetup 1 = true) :=
  ⟨⟨up, by decide +kernel⟩,
   ⟨State.reset, by decide +kernel⟩,
   ⟨(at_ (curD opTload tileBits [(0, ten 1 0x80000 [32, 2, 1] [1, 32, 0] 0x20)])).setCell 0 { Cell.reset with owner := some 2 }, by decide +kernel⟩⟩

theorem witness_Increments :
    (∃ (s : State),
      3 ≤ s.pwr.step
      ∧ selOf s.clk.sel 13 = 1)
    ∧ (∃ (s : State),
      3 ≤ s.pwr.step
      ∧ selOf s.clk.sel 13 ≠ 1 ∧ s.clk.coast = true ∧ s.clk.proofed = false ∧ 1000 * 2 ^ 32 ≤ s.clk.coastAge)
    ∧ (∃ (s : State),
      3 ≤ s.pwr.step
      ∧ selOf s.clk.sel 13 ≠ 1 ∧ s.clk.coast = true ∧ 4908534053 ≤ s.time.inc ∧ 2 * s.time.inc ≤ 5 * 2 ^ 32 ∧ s.clk.proofed = false)
    ∧ (∃ (s : State),
      3 ≤ s.pwr.step
      ∧ selOf s.clk.sel 13 ≠ 1 ∧ s.clk.coast = true ∧ 4908534053 ≤ s.time.inc ∧ 2 * s.time.inc ≤ 5 * 2 ^ 32 ∧ s.clk.proofed = true)
    ∧ (∃ (s : State),
      3 ≤ s.pwr.step
      ∧ selOf s.clk.sel 13 ≠ 1 ∧ s.clk.coast = false) :=
  ⟨⟨clkWith (fun k => { k with sel := 0x4000000 }), by decide +kernel⟩,
   ⟨clkWith (fun k => { k with coast := true, coastAge := 1000 * 2 ^ 32 }), by decide +kernel⟩,
   ⟨{ clkWith (fun k => { k with coast := true }) with time := { up.time with inc := 5000000000 } }, by decide +kernel⟩,
   ⟨{ clkWith (fun k => { k with coast := true, proofed := true }) with time := { up.time with inc := 5000000000 } }, by decide +kernel⟩,
   ⟨up, by decide +kernel⟩⟩

theorem witness_TimeSetSteps :
    (∃ (s : State),
      s.serving = true
      ∧ s.selfTimed = true ∧ s.syncOn = false)
    ∧ (∃ (s : State),
      s.serving = true
      ∧ s.selfTimed = false) :=
  ⟨⟨up, by decide +kernel⟩,
   ⟨follower, by decide +kernel⟩⟩

theorem witness_SyncInEdges :
    (∃ (s : State),
      s.serving = true)
    ∧ (∃ (n : Nat),
      n < 20)
    ∧ (∃ (n : Nat) (s : State),
      20 ≤ n
      ∧ s.tap.pinsHeld = false
      ∧ s.selfTimed = true
      ∧ s.syncOn = true
      ∧ s.time.armed = true)
    ∧ (∃ (n : Nat) (s : State),
      20 ≤ n
      ∧ s.tap.pinsHeld = false
      ∧ s.selfTimed = true
      ∧ s.syncOn = true
      ∧ (let at_ : Word := BitVec.ofNat 64 (s.syncNext * 2 ^ 16)
      (let off := (at_ - s.time.now).toInt.natAbs
      s.time.valid = true ∧ s.time.armed = false ∧ off ≤ 10000 * 2 ^ 16)))
    ∧ (∃ (n : Nat) (s : State),
      20 ≤ n
      ∧ s.tap.pinsHeld = false
      ∧ s.selfTimed = true
      ∧ s.syncOn = true
      ∧ (let at_ : Word := BitVec.ofNat 64 (s.syncNext * 2 ^ 16)
      (let off := (at_ - s.time.now).toInt.natAbs
      s.time.valid = true ∧ s.time.armed = false ∧ 10000 * 2 ^ 16 < off))) :=
  ⟨⟨up, by decide +kernel⟩,
   ⟨19, by decide +kernel⟩,
   ⟨20, timeWith (fun t => { t with syncIn := 0x50001, armed := true }), by decide +kernel⟩,
   ⟨20, timeWith (fun t => { t with now := 0x50000, valid := true, syncIn := 0x50001 }), by decide +kernel⟩,
   ⟨20, timeWith (fun t => { t with now := 0x500000000, valid := true, syncIn := 0x50001 }), by decide +kernel⟩⟩

theorem witness_SyncOutPulses :
    (∃ (s : State),
      s.tap.pinsHeld = false ∧ bitAt s.time.cfg.toNat 53 = true ∧ s.time.valid = true ∧ s.time.syncDue = true)
    ∧ (∃ (s : State),
      (bitAt s.time.cfg.toNat 53 = false ∨ s.time.valid = false ∨ s.time.syncDue = false)) :=
  ⟨⟨timeWith (fun t => { t with cfg := 0x0020000000000000, valid := true, syncDue := true }), by decide +kernel⟩,
   ⟨up, by decide +kernel⟩⟩

theorem witness_FollowerLocks :
    (∃ (p : Fin 18) (s : State),
      s.tap.pinsHeld = false
      ∧ s.upport = p.val
      ∧ (s.port p).isUp = true
      ∧ s.time.valid = false ∧ s.time.first = true)
    ∧ (∃ (p : Fin 18) (v : Word) (s : State),
      s.tap.pinsHeld = false
      ∧ s.upport = p.val
      ∧ (s.port p).isUp = true
      ∧ (let at_ := v + (tabGet (0 : BitVec 32) s.time.portDelay p).setWidth 64
      (let e := (at_ - s.time.now).toInt
      s.time.valid = true ∧ 1000 * 2 ^ 16 < e.natAbs)))
    ∧ (∃ (p : Fin 18) (v : Word) (s : State),
      s.tap.pinsHeld = false
      ∧ s.upport = p.val
      ∧ (s.port p).isUp = true
      ∧ (let at_ := v + (tabGet (0 : BitVec 32) s.time.portDelay p).setWidth 64
      (let e := (at_ - s.time.now).toInt
      s.time.valid = false ∧ s.time.first = false ∧ e.natAbs ≤ 50 * 2 ^ 16))) :=
  ⟨⟨2, follower, by decide +kernel⟩,
   ⟨2, 0x500000000, { follower with time := { follower.time with valid := true, first := false } }, by decide +kernel⟩,
   ⟨2, 0x10000, { follower with time := { follower.time with first := false, locks := 15 } }, by decide +kernel⟩⟩

theorem witness_HoldoverRuns :
    (∃ (p : Fin 18) (s : State),
      s.tap.pinsHeld = false
      ∧ (s.port p).isUp = true)
    ∧ (∃ (s : State),
      s.selfTimed = false)
    ∧ (∃ (s : State),
      s.time.holdover = true)
    ∧ (∃ (s : State),
      s.serving = true)
    ∧ (∃ (v : Word) (s : State),
      s.serving = true
      ∧ s.selfTimed = true ∧ 18 ≤ field v.toNat 58 54 ∧ s.time.holdover = true) :=
  ⟨⟨2, follower, by decide +kernel⟩,
   ⟨follower, by decide +kernel⟩,
   ⟨timeWith (fun t => { t with holdover := true, valid := true }), by decide +kernel⟩,
   ⟨up, by decide +kernel⟩,
   ⟨0x07C0000000000000, timeWith (fun t => { t with holdover := true }), by decide +kernel⟩⟩

theorem witness_OscillatorProofs :
    (∃ (w : ClockWindow) (s : State) (e : Int),
      s.ready = true
      ∧ s.clk.oscRuns = true
      ∧ s.clk.proofed = false
      ∧ w.long = true
      ∧ s.clk.trimSrc ≠ 3
      ∧ s.clk.discard = false
      ∧ s.clk.firstDone = true
      ∧ s.second w = some e
      ∧ e.natAbs ≤ 800 ∧ 4 ≤ s.clk.inBand + 1)
    ∧ (∃ (w : ClockWindow) (s : State) (e : Int),
      s.ready = true
      ∧ s.clk.oscRuns = true
      ∧ s.clk.proofed = false
      ∧ w.long = true
      ∧ s.clk.trimSrc ≠ 3
      ∧ s.clk.discard = false
      ∧ s.clk.firstDone = true
      ∧ s.second w = some e
      ∧ e.natAbs ≤ 800 ∧ s.clk.inBand + 1 < 4)
    ∧ (∃ (w : ClockWindow) (s : State) (e : Int),
      s.ready = true
      ∧ s.clk.oscRuns = true
      ∧ s.clk.proofed = false
      ∧ w.long = true
      ∧ s.clk.trimSrc ≠ 3
      ∧ s.clk.discard = false
      ∧ s.clk.firstDone = true
      ∧ s.second w = some e
      ∧ 800 < e.natAbs) :=
  ⟨⟨{ calm with long := true, refErr := 800 }, clkWith (fun k => { k with refOk := true, firstDone := true, inBand := 3 }), 800, by decide +kernel⟩,
   ⟨{ calm with long := true, refErr := -800 }, clkWith (fun k => { k with refOk := true, firstDone := true, inBand := 2 }), -800, by decide +kernel⟩,
   ⟨{ calm with long := true, refErr := 801 }, clkWith (fun k => { k with refOk := true, firstDone := true, inBand := 3 }), 801, by decide +kernel⟩⟩

theorem witness_OscillatorFails :
    (∃ (w : ClockWindow) (s : State) (e : Int),
      s.ready = true
      ∧ s.clk.oscRuns = true
      ∧ s.clk.proofed = true
      ∧ s.second w = some e
      ∧ (if w.long then 4000 else 8000) ≤ e.natAbs
      ∧ s.selfTimed = true)
    ∧ (∃ (w : ClockWindow) (s : State) (e : Int),
      s.ready = true
      ∧ s.clk.oscRuns = true
      ∧ s.clk.proofed = true
      ∧ s.second w = some e
      ∧ (if w.long then 4000 else 8000) ≤ e.natAbs
      ∧ w.long = true) :=
  ⟨⟨{ calm with refErr := 8000 }, { up with clk := proofedClk, time := { up.time with valid := true } }, 8000, by decide +kernel⟩,
   ⟨{ calm with long := true, refErr := 4000 }, { up with clk := proofedClk }, 4000, by decide +kernel⟩⟩

theorem witness_ReferenceLost : ∃ (w : ClockWindow) (s : State),
    s.ready = true
    ∧ s.clk.oscRuns = true
    ∧ s.clk.proofed = true
    ∧ s.clk.refOk = true
    ∧ w.refEdges = false
    ∧ s.windowFails w = false
    ∧ s.clk.driftBand < 4
    ∧ s.selfTimed = true :=
  ⟨{ calm with refEdges := false }, { up with clk := proofedClk }, by decide +kernel⟩

theorem witness_OscillatorStops :
    (∃ (s : State),
      s.clk.oscRuns = false)
    ∧ (∃ (s : State),
      s.clk.oscRuns = true
      ∧ selOf s.clk.sel 0 = 1 ∧ s.hasIsland 0 = true) :=
  ⟨⟨clkWith (fun k => { k with oscRuns := false }), by decide +kernel⟩,
   ⟨clkWith (fun k => { k with sel := 1 }), by decide +kernel⟩⟩

theorem witness_ClockEvents :
    (∃ (s : State),
      s.clk.coast = true
      ∧ s.clk.proofed = true
      ∧ s.clk.oscRuns = true)
    ∧ (∃ (x : BitVec 4) (y : BitVec 4) (z : BitVec 4) (s : State),
      s.clk.hist = [x, y, z])
    ∧ (∃ (v : Word) (s : State),
      s.serving = true
      ∧ s.clk.proofed = false
      ∧ BitVec.ofNat 2 (field v.toNat 3 2) ≠ s.clk.trimSrc) :=
  ⟨⟨clkWith (fun k => { k with coast := true, proofed := true }), by decide +kernel⟩,
   ⟨0, 0xF, 0xF, up, by decide +kernel⟩,
   ⟨4, up, by decide +kernel⟩⟩

theorem witness_IslandWrite :
    (∃ (v : Word) (s : State),
      s.serving = true
      ∧ s.clk.switching = [] ∧ field v.toNat 33 32 ≠ 3 ∧ bitAt v.toNat 16 = true)
    ∧ (∃ (v : Word) (s : State),
      s.serving = true
      ∧ s.clk.switching = [] ∧ bitAt v.toNat 16 = false)
    ∧ (∃ (s : State),
      s.serving = true
      ∧ s.clk.switching ≠ []) :=
  ⟨⟨0x0000000100010001, clkWith (fun k => { k with hung := 1 }), by decide +kernel⟩,
   ⟨0x0000000100000000, up, by decide +kernel⟩,
   ⟨clkWith (fun k => { k with switching := [(3, some 0)] }), by decide +kernel⟩⟩

theorem witness_IslandSwitchEnds :
    (∃ (i : Fin 16) (s : State),
      s.switchFrom i = some 0 ∧ s.sourceRuns 0 = true ∧ s.sourceRuns (selOf s.clk.sel i) = true)
    ∧ (∃ (i : Fin 16) (s : State),
      s.switchFrom i = some 1 ∧ s.sourceRuns 1 = false)
    ∧ (∃ (i : Fin 16) (s : State),
      bitAt s.clk.islReset.toNat i = true ∧ i ≠ 12 ∧ i ≠ 13 ∧ i ≠ 14)
    ∧ (∃ (i : Fin 16) (s : State),
      s.sourceRuns (selOf s.clk.sel i) = false) :=
  ⟨⟨3, clkWith (fun k => { k with oscRuns := true, switching := [(3, some 0)] }), by decide +kernel⟩,
   ⟨3, clkWith (fun k => { k with oscRuns := false, switching := [(3, some 1)] }), by decide +kernel⟩,
   ⟨3, clkWith (fun k => { k with islReset := 8, switching := [(3, none)] }), by decide +kernel⟩,
   ⟨3, clkWith (fun k => { k with islReset := 8, switching := [(3, none)], pllDown := true }), by decide +kernel⟩⟩

theorem witness_PllStops :
    (∃ (s : State),
      s.serving = true
      ∧ s.clk.pllDown = true)
    ∧ (∃ (s : State),
      s.ready = true
      ∧ s.clk.oscRuns = true
      ∧ s.clk.pllDown = false
      ∧ (s.ctx 1).run.st ≠ .stopped ∧ (s.ctx 1).gen.flip = .none ∧ (s.ctx 1).gen.abortBit = false)
    ∧ (∃ (s : State),
      s.ready = true
      ∧ s.clk.oscRuns = true
      ∧ s.clk.pllDown = false
      ∧ (s.ctx 1).run.st = .stopped ∧ (s.ctx 1).run.resumable = true ∧ (s.ctx 1).gen.flip = .none ∧ (s.ctx 1).gen.abortBit = false) :=
  ⟨⟨clkWith (fun k => { k with pllDown := true }), by decide +kernel⟩,
   ⟨one (runWith ctxUp (fun r => { r with st := .idle })), by decide +kernel⟩,
   ⟨one (runWith ctxUp (fun r => { r with resumable := true })), by decide +kernel⟩⟩

theorem witness_OperatingPoints :
    (∃ (s : State),
      s.serving = true
      ∧ s.clk.linkTo = none ∧ s.clk.throttled = false)
    ∧ (∃ (s : State) (x : BitVec 2),
      s.clk.linkTo = some x)
    ∧ (∃ (s : State) (x : BitVec 2),
      s.clk.stwTo = some x) :=
  ⟨⟨up, by decide +kernel⟩,
   ⟨clkWith (fun k => { k with linkTo := some 3 }), 3, by decide +kernel⟩,
   ⟨clkWith (fun k => { k with stwTo := some 0 }), 0, by decide +kernel⟩⟩

theorem witness_PowerLimiter :
    (∃ (a : Nat) (s : State),
      s.ready = true
      ∧ 1000 < a)
    ∧ (∃ (a : Nat) (s : State),
      s.ready = true
      ∧ 1000 < a ∧ s.clk.throttled = true)
    ∧ (∃ (a : Nat) (b : Nat) (c : Nat) (s : State),
      s.ready = true
      ∧ a < 950 ∧ b < 950 ∧ c < 950 ∧ s.clk.throttled = true ∧ s.clk.duty ≠ 0xF)
    ∧ (∃ (a : Nat) (b : Nat) (c : Nat) (s : State),
      s.ready = true
      ∧ a < 950 ∧ b < 950 ∧ c < 950 ∧ s.clk.throttled = true ∧ s.clk.duty = 0xF)
    ∧ (∃ (a : Nat) (b : Nat) (c : Nat) (s : State),
      s.ready = true
      ∧ 950 ≤ a ∧ a ≤ 1000 ∧ b ≤ 1000 ∧ c ≤ 1000) :=
  ⟨⟨1001, up, by decide +kernel⟩,
   ⟨1001, clkWith (fun k => { k with throttled := true, duty := 5 }), by decide +kernel⟩,
   ⟨949, 0, 0, clkWith (fun k => { k with throttled := true, duty := 5 }), by decide +kernel⟩,
   ⟨949, 0, 0, clkWith (fun k => { k with throttled := true }), by decide +kernel⟩,
   ⟨950, 0, 0, clkWith (fun k => { k with throttled := true, duty := 5 }), by decide +kernel⟩⟩

theorem witness_PowerStates :
    (∃ (n : Fin 12) (s : State),
      n.val < s.nSlices
      ∧ s.clk.autoIdle = true
      ∧ s.sliceIdle n = true)
    ∧ (∃ (v : Word) (s : State),
      s.serving = true
      ∧ s.clk.pwState = 0
      ∧ bitAt v.toNat 0 = true
      ∧ s.parkOk = true)
    ∧ (∃ (v : Word) (s : State),
      s.serving = true
      ∧ s.clk.pwState = 0
      ∧ bitAt v.toNat 0 = true
      ∧ (s.parkOk = true ∧ (∀ c, c < 64 → s.ownedCells c = [])))
    ∧ (∃ (v : Word) (s : State),
      s.serving = true
      ∧ s.clk.pwState = 0
      ∧ bitAt v.toNat 0 = true
      ∧ s.parkOk = false)
    ∧ (∃ (v : Word) (s : State),
      s.serving = true
      ∧ s.clk.pwState = 2
      ∧ bitAt v.toNat 1 = true
      ∧ bitAt v.toNat 0 = false)
    ∧ (∃ (v : Word) (s : State),
      s.serving = true
      ∧ s.clk.pwState = 2
      ∧ bitAt v.toNat 0 = true
      ∧ bitAt v.toNat 1 = false)
    ∧ (∃ (s : State),
      s.clk.pwState = 3
      ∧ (∀ c, c < 64 → s.outstanding (.switchOut c) = false))
    ∧ (∃ (s : State),
      s.clk.pwState = 4) :=
  ⟨⟨1, up, by decide +kernel⟩,
   ⟨1, (one ctxUp).setCell 3 cellOf1, by decide +kernel⟩,
   ⟨1, up, by decide +kernel⟩,
   ⟨1, at_ (cur (wordOf opNop 0)), by decide +kernel⟩,
   ⟨2, clkWith (fun k => { k with pwState := 2 }), by decide +kernel⟩,
   ⟨1, clkWith (fun k => { k with pwState := 2 }), by decide +kernel⟩,
   ⟨clkWith (fun k => { k with pwState := 3 }), by decide +kernel⟩,
   ⟨clkWith (fun k => { k with pwState := 4 }), by decide +kernel⟩⟩

theorem witness_PowerUpAndReset :
    (∃ (s : State),
      s.pwr.step < 2)
    ∧ (∃ (s : State),
      s.pwr.step = 2)
    ∧ (∃ (s : State),
      3 ≤ s.pwr.step)
    ∧ (∃ (ns : Nat),
      100 ≤ ns)
    ∧ (∃ (ns : Nat),
      ns < 100) :=
  ⟨⟨State.reset, by decide +kernel⟩,
   ⟨{ State.reset with pwr := { State.reset.pwr with step := 2 } }, by decide +kernel⟩,
   ⟨up, by decide +kernel⟩,
   ⟨100, by decide +kernel⟩,
   ⟨99, by decide +kernel⟩⟩

theorem witness_WatchdogResets :
    (∃ (s : State),
      field s.cfg.timing.toNat 15 0 ≠ 0 ∧ s.cfg.wdogResets < 2)
    ∧ (∃ (s : State),
      field s.cfg.timing.toNat 15 0 = 0) :=
  ⟨⟨up, by decide +kernel⟩,
   ⟨{ up with cfg := { up.cfg with timing := 0 } }, by decide +kernel⟩⟩

theorem witness_ResponseRemoves :
    (∃ (k : Fin 12) (s : State),
      s.xb.held = []
      ∧ s.fab.resolving = []
      ∧ s.fab.heldWrites = []
      ∧ s.fab.ledgerQ = []
      ∧ s.stackState k = 3)
    ∧ (∃ (k : Fin 12) (tag : BitVec 10) (write : Bool) (s : State),
      s.xb.held = []
      ∧ s.fab.resolving = []
      ∧ s.fab.heldWrites = []
      ∧ s.fab.ledgerQ = []
      ∧ s.stackState k ≠ 3 ∧ ((s.stackPort k).find write tag.toNat).map (·.by_) = some (.instr 1))
    ∧ (∃ (k : Fin 12) (tag : BitVec 10) (write : Bool) (s : State),
      s.xb.held = []
      ∧ s.fab.resolving = []
      ∧ s.fab.heldWrites = []
      ∧ s.fab.ledgerQ = []
      ∧ (s.stackState k ≠ 3 ∧ (s.stackPort k).find write tag.toNat = none ∧ (∃ r ∈ (s.stackPort k).late, r.write = write ∧ r.tag = some tag.toNat)))
    ∧ (∃ (k : Fin 12) (tag : BitVec 10) (write : Bool) (s : State),
      s.xb.held = []
      ∧ s.fab.resolving = []
      ∧ s.fab.heldWrites = []
      ∧ s.fab.ledgerQ = []
      ∧ (s.stackState k ≠ 3 ∧ (s.stackPort k).find write tag.toNat = none ∧ (∀ r ∈ (s.stackPort k).late, r.write = write → r.tag ≠ some tag.toNat)))
    ∧ (∃ (k : Fin 12) (tag : BitVec 10) (write : Bool) (s : State),
      s.xb.held = []
      ∧ s.fab.resolving = []
      ∧ s.fab.heldWrites = []
      ∧ s.fab.ledgerQ = []
      ∧ s.stackState k ≠ 3 ∧ s.crossRuns = true ∧ ((s.stackPort k).find write tag.toNat).map (fun r => (r.num, s.responseHeld r)) = some (1, true))
    ∧ (∃ (s : State),
      s.xb.held = []
      ∧ s.fab.resolving = []
      ∧ s.fab.heldWrites = []
      ∧ s.fab.ledgerQ = []
      ∧ s.crossRuns = false) :=
  ⟨⟨0, stackIn 0 3, by decide +kernel⟩,
   ⟨0, 3, false, withReqs nopAt [reqBy (.instr 1) false], by decide +kernel⟩,
   ⟨0, 3, false, up.setStackPort 0 ⟨[], [], [reqBy (.instr 1) false], 0, 0, []⟩, by decide +kernel⟩,
   ⟨0, 3, false, up, by decide +kernel⟩,
   ⟨0, 3, false, withReqs nopAt [{ reqBy (.instr 1) false with num := 1 }, { reqBy (.instr 1) false with tag := some 4 }], by decide +kernel⟩,
   ⟨clkWith (fun k => { k with islReset := 0x1000 }), by decide +kernel⟩⟩

theorem witness_FailedFetchStops :
    (∃ (k : Fin 12) (tag : BitVec 10) (s : State) (r : Req) (c : Nat) (i : Cur) (stage : Nat) (step : Nat),
      (s.stackPort k).find false tag.toNat = some r
      ∧ r.by_ = .fetch c i.n stage step
      ∧ s.head c = some i
      ∧ s.active c = true
      ∧ i.phase = .ready
      ∧ i.halted = false
      ∧ i.fault = none
      ∧ (s.ctx c).run.head = i.n
      ∧ s.NothingDue c
      ∧ (s.ctx c).gen.abortBit = false
      ∧ stage < 8
      ∧ step < 16
      ∧ s.xb.held = []
      ∧ s.fab.resolving = []
      ∧ s.fab.heldWrites = []
      ∧ s.fab.ledgerQ = []
      ∧ s.responseHeld r = false
      ∧ s.stackState k ≠ 3 ∧ step ≠ 7)
    ∧ (∃ (k : Fin 12) (tag : BitVec 10) (s : State) (r : Req) (c : Nat) (i : Cur) (stage : Nat) (step : Nat),
      (s.stackPort k).find false tag.toNat = some r
      ∧ r.by_ = .fetch c i.n stage step
      ∧ s.head c = some i
      ∧ s.active c = true
      ∧ i.phase = .ready
      ∧ i.halted = false
      ∧ i.fault = none
      ∧ (s.ctx c).run.head = i.n
      ∧ s.NothingDue c
      ∧ (s.ctx c).gen.abortBit = false
      ∧ stage < 8
      ∧ step < 16
      ∧ s.xb.held = []
      ∧ s.fab.resolving = []
      ∧ s.fab.heldWrites = []
      ∧ s.fab.ledgerQ = []
      ∧ s.responseHeld r = false
      ∧ s.stackState k ≠ 3 ∧ step = 7) :=
  ⟨⟨0, 3, withReqs nopAt [reqBy (.fetch 1 0 1 4) false], reqBy (.fetch 1 0 1 4) false, 1, cur (wordOf opNop 0), 1, 4, by decide +kernel⟩,
   ⟨0, 3, withReqs nopAt [reqBy (.fetch 1 0 1 7) false], reqBy (.fetch 1 0 1 7) false, 1, cur (wordOf opNop 0), 1, 7, by decide +kernel⟩⟩

theorem witness_FailedRequestStops : ∃ (k : Fin 12) (tag : BitVec 10) (write : Bool) (s : State) (r : Req) (c : Nat) (i : Cur),
    (s.stackPort k).find write tag.toNat = some r
    ∧ r.by_ = .instr c
    ∧ s.head c = some i
    ∧ s.active c = true
    ∧ (s.ctx c).gen.abortBit = false
    ∧ s.xb.held = []
    ∧ s.fab.resolving = []
    ∧ s.fab.heldWrites = []
    ∧ s.fab.ledgerQ = []
    ∧ s.stackState k ≠ 3 :=
  ⟨0, 3, false, withReqs nopAt [reqBy (.instr 1) false], reqBy (.instr 1) false, 1, cur (wordOf opNop 0), by decide +kernel⟩

theorem witness_PortEvents :
    (∃ (s : State),
      s.tap.pinsHeld = false)
    ∧ (∃ (s : State),
      s.tap.pinsHeld = true)
    ∧ (∃ (k : Fin 40) (n : Nat) (r : Req) (s : State),
      (s.stackPort k).wait[n]? = some r)
    ∧ (∃ (c : Fin 64) (w : Fin 1024) (s : State),
      (s.ctx c).gen.tblRetry.contains w.val = false
      ∧ (s.ctx c).gen.saveRetry = false
      ∧ (s.winRec c w).retry = false)
    ∧ (∃ (c : Fin 64) (w : Fin 1024) (s : State),
      (s.ctx c).gen.tblRetry.contains w.val = false
      ∧ (s.ctx c).gen.saveRetry = false
      ∧ s.crossRuns = true ∧ (s.winRec c w).retry = true ∧ (s.winEff c w).resident = true) :=
  ⟨⟨up, by decide +kernel⟩,
   ⟨{ up with tap := { up.tap with pinsHeld := true } }, by decide +kernel⟩,
   ⟨0, 0, reqBy (.instr 1) false, nopAt.setStackPort 0 ⟨[reqBy (.instr 1) false], [], [], 0, 0, []⟩, by decide +kernel⟩,
   ⟨1, 0, one ctxUp, by decide +kernel⟩,
   ⟨1, 0, one { ctxUp with recs := [(0, { lagRec with retry := true, paused := true })] }, by decide +kernel⟩⟩

theorem witness_StackRetires :
    (∃ (s : State),
      s.serving = true
      ∧ s.xb.go = true)
    ∧ (∃ (v : Word) (s : State),
      s.serving = true
      ∧ s.xb.go = false ∧ (s.setCmd v).planAbsent = true ∧ (s.setCmd v).retirable (s.setCmd v).cmdStack = true)
    ∧ (∃ (v : Word) (s : State),
      s.serving = true
      ∧ s.xb.go = false ∧ (s.setCmd v).retirable (s.setCmd v).cmdStack = false)
    ∧ (∃ (v : Word) (s : State),
      s.serving = true
      ∧ s.xb.go = false ∧ (s.setCmd v).planAbsent = false ∧ (s.setCmd v).retirable (s.setCmd v).cmdStack = true ∧ (s.setCmd v).retireRefused (s.setCmd v).cmdStack (s.setCmd v).readPlan = some 0)
    ∧ (∃ (v : Word) (s : State),
      s.serving = true
      ∧ s.xb.go = false ∧ (s.setCmd v).planAbsent = false ∧ (s.setCmd v).retirable (s.setCmd v).cmdStack = true ∧ (s.setCmd v).retireRefused (s.setCmd v).cmdStack (s.setCmd v).readPlan = none)
    ∧ (∃ (v : Word) (s : State),
      s.serving = true
      ∧ s.xb.go = false ∧ (s.setCmd v).planAbsent = false ∧ (s.setCmd v).stackState (s.setCmd v).planStack = 3) :=
  ⟨⟨xbWith (fun x => { x with go := true }), by decide +kernel⟩,
   ⟨0x0FFFFFFFFFFFF001, up, by decide +kernel⟩,
   ⟨1, stackIn 0 0, by decide +kernel⟩,
   ⟨1, up, by decide +kernel⟩,
   ⟨0x10000101, planned, by decide +kernel, by decide +kernel, by decide +kernel, by decide +kernel, planned_accepted⟩,
   ⟨0x1000000000000001, stackIn 1 3, by decide +kernel⟩⟩

theorem witness_MigrationEnds :
    (∃ (s : State) (m : Migration) (p : PlanEntry),
      s.xb.mig = some m
      ∧ m.plan[m.entry]? = some p
      ∧ s.outstanding .migration = true)
    ∧ (∃ (s : State) (m : Migration) (p : PlanEntry),
      s.xb.mig = some m
      ∧ m.plan[m.entry]? = some p
      ∧ s.outstanding .migration = false ∧ s.migQuiet m p = true ∧ m.entry + 1 < m.plan.length)
    ∧ (∃ (s : State) (m : Migration) (p : PlanEntry),
      s.xb.mig = some m
      ∧ m.plan[m.entry]? = some p
      ∧ (s.outstanding .migration = false ∧ s.migQuiet m p = true ∧ (¬ ∃ l ∈ s.xb.locks, l.target = m.stack) ∧ m.plan.length ≤ m.entry + 1)) :=
  ⟨⟨withReqs (migrating [planEntry]) [reqBy .migration false], ⟨1, [planEntry], 0, 0⟩, planEntry, by decide +kernel⟩,
   ⟨migrating [planEntry, planEntry], ⟨1, [planEntry, planEntry], 0, 0⟩, planEntry, by decide +kernel⟩,
   ⟨migrating [planEntry], ⟨1, [planEntry], 0, 0⟩, planEntry, by decide +kernel⟩⟩

theorem witness_StackReturns :
    (∃ (v : Word) (s : State),
      s.serving = true
      ∧ s.xb.go = false
      ∧ s.stackState (s.setCmd v).cmdStack ≠ 3)
    ∧ (∃ (v : Word) (s : State),
      s.serving = true
      ∧ s.xb.go = false
      ∧ s.stackState (s.setCmd v).cmdStack = 3 ∧ s.stackDead (s.setCmd v).cmdStack = false ∧ (s.ctx 1).gen.isOpen = true)
    ∧ (∃ (v : Word) (s : State),
      s.serving = true
      ∧ s.xb.go = false
      ∧ (s.stackState (s.setCmd v).cmdStack = 3 ∧ s.stackDead (s.setCmd v).cmdStack = false ∧ (∀ c, c < 64 → (s.ctx c).gen.isOpen = false) ∧ s.xb.joinWait = []))
    ∧ (∃ (k : Fin 12) (s : State),
      s.stackState k = 4
      ∧ (∀ e ∈ s.xb.joinWait, e.1 ≠ k.val))
    ∧ (∃ (k : Fin 12) (s : State),
      s.stackState k = 4
      ∧ (∃ e ∈ s.xb.joinWait, e.1 = k.val)) :=
  ⟨⟨5, up, by decide +kernel⟩,
   ⟨5, (stackIn 0 3).setCtx 1 (genOpen ctxUp), by decide +kernel⟩,
   ⟨5, stackIn 0 3, by decide +kernel⟩,
   ⟨0, (stackIn 0 4).setCtx 1 ctxUp, by decide +kernel⟩,
   ⟨0, { stackIn 0 4 with xb := { (stackIn 0 4).xb with joinWait := [(0, 1)] } }, by decide +kernel⟩⟩

theorem witness_ImageLoadStarts :
    (∃ (v : Word) (s : State),
      s.serving = true
      ∧ s.cfg.go = false
      ∧ s.cfg.activate = false
      ∧ bitAt v.toNat 0 = true
      ∧ bitAt v.toNat 2 = false
      ∧ bitAt v.toNat 3 = false
      ∧ s.cfg.st = 0 ∧ s.cfg.bootBusy = false)
    ∧ (∃ (v : Word) (s : State),
      s.serving = true
      ∧ s.cfg.go = false
      ∧ s.cfg.activate = false
      ∧ bitAt v.toNat 0 = true
      ∧ bitAt v.toNat 2 = false
      ∧ bitAt v.toNat 3 = false
      ∧ s.cfg.st ≠ 0) :=
  ⟨⟨1, up, by decide +kernel⟩,
   ⟨1, cfgWith (fun c => { c with st := 2 }), by decide +kernel⟩⟩

theorem witness_ImageData :
    (∃ (s : State),
      s.cfg.st ≠ 1)
    ∧ (∃ (data : List Byte) (s : State),
      s.cfg.st = 1 ∧ s.imgSrcStack = false ∧ s.cfgpTakes = true ∧ s.cfg.img.hdr = none ∧ s.cfg.img.seen = [] ∧ s.cfg.img.bytes.length < 256 ∧ s.cfg.img.bytes.length + data.length < 256)
    ∧ (∃ (data : List Byte) (s : State),
      s.cfg.st = 1 ∧ s.imgSrcStack = false ∧ s.cfgpTakes = true ∧ s.cfg.img.hdr = none ∧ s.cfg.img.seen = [] ∧ s.cfg.img.bytes.length < 256 ∧ s.cfg.img.bytes.length + data.length = 256 ∧ s.hdrCheck false (s.cfg.img.bytes ++ data) = some 1)
    ∧ (∃ (data : List Byte) (s : State),
      s.cfg.st = 1 ∧ s.imgSrcStack = false ∧ s.cfgpTakes = true ∧ s.cfg.img.hdr = none ∧ s.cfg.img.seen = [] ∧ s.cfg.img.bytes.length < 256 ∧ s.cfg.img.bytes.length + data.length = 256 ∧ s.hdrCheck false (s.cfg.img.bytes ++ data) = none)
    ∧ (∃ (s : State),
      s.cfg.st = 1) :=
  ⟨⟨up, by decide +kernel⟩,
   ⟨[1], keyed (fun c => { c with st := 1, go := true }), by decide +kernel⟩,
   ⟨List.replicate 256 0, keyed (fun c => { c with st := 1, go := true }), by decide +kernel⟩,
   ⟨hdrBytes 0 0 0, keyed (fun c => { c with st := 1, go := true }), by decide +kernel⟩,
   ⟨keyed (fun c => { c with st := 1, go := true, bootBusy := false }), by decide +kernel⟩⟩

theorem witness_ImageAddressAbsent : ∃ (data : List Byte) (s : State),
    s.cfg.st = 1
    ∧ s.imgSrcStack = true
    ∧ s.capBytes s.imgStack < s.imgAddr + min data.length s.imgNeed :=
  ⟨[1], cfgWith (fun c => { c with st := 1, load := 0x0FFFFFFFFFFFF010 }), by decide +kernel⟩

theorem witness_ImageChecked :
    (∃ (s : State) (h : ImgHdr),
      s.cfg.img.hdr = some h
      ∧ s.cfg.st = 1
      ∧ h.length ≤ s.cfg.img.bytes.length
      ∧ digestOk s.cfg.img.bytes = false)
    ∧ (∃ (s : State) (h : ImgHdr),
      s.cfg.img.hdr = some h
      ∧ s.cfg.st = 1
      ∧ h.length ≤ s.cfg.img.bytes.length
      ∧ digestOk s.cfg.img.bytes = true ∧ s.imageKey s.cfg.img.revoke h = some key0 ∧ signatureOk key0 s.cfg.img.bytes = false)
    ∧ (∃ (s : State) (h : ImgHdr),
      s.cfg.img.hdr = some h
      ∧ s.cfg.st = 1
      ∧ h.length ≤ s.cfg.img.bytes.length
      ∧ digestOk s.cfg.img.bytes = true ∧ s.imageKey s.cfg.img.revoke h = some key0 ∧ signatureOk key0 s.cfg.img.bytes = true ∧ bitAt s.cfg.load.toNat 5 = false ∧ isFirmware s.imgRegion = false)
    ∧ (∃ (s : State),
      s.cfg.st = 1
      ∧ 0 < s.imgNeed)
    ∧ (∃ (v : Word) (s : State),
      s.serving = true
      ∧ s.cfg.go = false
      ∧ s.cfg.activate = false
      ∧ s.cfg.st = 2
      ∧ bitAt v.toNat 0 = false
      ∧ bitAt v.toNat 2 = false
      ∧ bitAt v.toNat 3 = true) :=
  ⟨⟨withImage (hdrBytes 1 0 0), hdr0, by decide +kernel⟩,
   ⟨withImage (hdrBytes digest0 0 0), hdr0, by decide +kernel⟩,
   ⟨{ withImage signed0 with cfg := { (withImage signed0).cfg with load := 0 } }, hdr0, by decide +kernel⟩,
   ⟨cfgWith (fun c => { c with st := 1 }), by decide +kernel⟩,
   ⟨8, staged 0 up, by decide +kernel⟩⟩

theorem witness_ActivationBegins :
    (∃ (v : Word) (s : State),
      s.serving = true
      ∧ s.cfg.go = false
      ∧ s.cfg.activate = false
      ∧ s.cfg.st = 2
      ∧ bitAt v.toNat 0 = false
      ∧ bitAt v.toNat 2 = true
      ∧ bitAt v.toNat 3 = false
      ∧ s.imgRegion < 12 ∧ s.carouselUses s.imgRegion (Config.latticeSlots (imageFrames s.cfg.img.bytes)).toNat = true)
    ∧ (∃ (v : Word) (s : State),
      s.serving = true
      ∧ s.cfg.go = false
      ∧ s.cfg.activate = false
      ∧ s.cfg.st = 2
      ∧ bitAt v.toNat 0 = false
      ∧ bitAt v.toNat 2 = true
      ∧ bitAt v.toNat 3 = false
      ∧ s.imgRegion < 12 ∧ s.carouselUses s.imgRegion (Config.latticeSlots (imageFrames s.cfg.img.bytes)).toNat = false)
    ∧ (∃ (v : Word) (s : State),
      s.serving = true
      ∧ s.cfg.go = false
      ∧ s.cfg.activate = false
      ∧ s.cfg.st = 2
      ∧ bitAt v.toNat 0 = false
      ∧ bitAt v.toNat 2 = true
      ∧ bitAt v.toNat 3 = false
      ∧ s.imgRegion = 0x10) :=
  ⟨⟨4, staged 0 (withQ ctxUp { openQ with carousel := some { rotor with step := 64 } } Chan.idle), by decide +kernel, by decide +kernel, by decide +kernel, by decide +kernel, by decide +kernel, by decide +kernel, by decide +kernel, by decide +kernel, slot64_absent _⟩,
   ⟨4, staged 0 up, by decide +kernel⟩,
   ⟨4, staged 0x10 up, by decide +kernel⟩⟩

theorem witness_DrainEnds :
    (∃ (s : State) (a : Act),
      s.cfg.act = some a
      ∧ s.cfg.st = 3
      ∧ s.drained a = true ∧ a.purge = false ∧ a.onExpire = false ∧ a.service = false ∧ a.region < 12)
    ∧ (∃ (s : State) (a : Act),
      s.cfg.act = some a
      ∧ s.cfg.st = 3
      ∧ s.drained a = false ∧ a.purge = false ∧ a.onExpire = true) :=
  ⟨⟨acting 3 0 ⟨0, false, false, false, true⟩, ⟨0, false, false, false, true⟩, by decide +kernel⟩,
   ⟨{ at_ (inPhase (curD opTload tileBits []) .moving) with cfg := (acting 3 0 ⟨0, false, true, false, true⟩).cfg }, ⟨0, false, true, false, true⟩, by decide +kernel⟩⟩

theorem witness_ActivationCompletes :
    (∃ (s : State) (a : Act) (h : ImgHdr) (k : Nat),
      s.cfg.act = some a
      ∧ s.cfg.st = 4
      ∧ a.service = false
      ∧ isFirmware a.region = false
      ∧ s.cfg.img.hdr = some h
      ∧ regionIndex a.region = some k
      ∧ k < 12)
    ∧ (∃ (s : State) (a : Act) (h : ImgHdr) (k : Nat),
      s.cfg.act = some a
      ∧ s.cfg.st = 4
      ∧ a.service = false
      ∧ isFirmware a.region = false
      ∧ s.cfg.img.hdr = some h
      ∧ regionIndex a.region = some k) :=
  ⟨⟨acting 4 0 ⟨0, false, false, false, true⟩, ⟨0, false, false, false, true⟩, hdr0, 0, by decide +kernel⟩,
   ⟨acting 4 0x10 ⟨16, false, false, false, true⟩, ⟨16, false, false, false, true⟩, { hdr0 with region := 0x10 }, 12, by decide +kernel⟩⟩

theorem witness_ScrubMends :
    (∃ (k : Fin 13) (n : Fin 512) (s : State),
      n.val ∉ (s.region k).upset)
    ∧ (∃ (k : Fin 13) (n : Fin 512) (bytes : List Byte) (s : State),
      (n.val ∈ (s.region k).upset ∧ s.hasRegion (regionCode k) = true ∧ (s.region k).broken = false ∧ (∀ a, s.cfg.act = some a → regionIndex a.region ≠ some k.val) ∧ bitAt s.clk.islReset.toNat (if k.val < 12 then k.val else 14) = false ∧ s.retainedOk k n bytes = true))
    ∧ (∃ (k : Fin 13) (n : Fin 512) (bytes : List Byte) (s : State),
      (n.val ∈ (s.region k).upset ∧ s.hasRegion (regionCode k) = true ∧ (s.region k).broken = false ∧ (∀ a, s.cfg.act = some a → regionIndex a.region ≠ some k.val) ∧ bitAt s.clk.islReset.toNat (if k.val < 12 then k.val else 14) = false ∧ s.retainedOk k n bytes = false ∧ k.val < 12 ∧ (∀ p, p < 64 → (s.slice k).spareOf p = none)))
    ∧ (∃ (k : Fin 13) (n : Fin 512) (bytes : List Byte) (s : State),
      (n.val ∈ (s.region k).upset ∧ s.hasRegion (regionCode k) = true ∧ (s.region k).broken = false ∧ (∀ a, s.cfg.act = some a → regionIndex a.region ≠ some k.val) ∧ bitAt s.clk.islReset.toNat (if k.val < 12 then k.val else 14) = false ∧ s.retainedOk k n bytes = false ∧ k.val = 12))
    ∧ (∃ (k : Fin 13) (n : Fin 512) (s : State),
      (n.val ∈ (s.region k).upset ∧ s.hasRegion (regionCode k) = true ∧ (s.region k).broken = false ∧ (∀ a, s.cfg.act = some a → regionIndex a.region ≠ some k.val) ∧ bitAt s.clk.islReset.toNat (if k.val < 12 then k.val else 14) = false ∧ n.val ∈ (s.region k).mending)) :=
  ⟨⟨0, 5, up, by decide +kernel⟩,
   ⟨0, 5, [], regionWith 0 (fun r => { r with upset := [5] }), by decide +kernel⟩,
   ⟨0, 5, [], regionWith 0 (fun r => { r with upset := [5], source := 1, frames := [(5, [1])] }), by decide +kernel⟩,
   ⟨12, 5, [], regionWith 12 (fun r => { r with upset := [5], source := 1, frames := [(5, [1])] }), by decide +kernel⟩,
   ⟨0, 5, regionWith 0 (fun r => { r with upset := [5], mending := [5] }), by decide +kernel⟩⟩

theorem witness_BootEnds :
    (∃ (s : State),
      s.ready = true
      ∧ s.cfg.bootBusy = false)
    ∧ (∃ (s : State),
      s.ready = true
      ∧ s.cfg.bootBusy = true ∧ s.cfgpTakes = true)
    ∧ (∃ (s : State),
      s.ready = true
      ∧ s.cfg.bootBusy = true ∧ s.cfg.bootAlt = true ∧ s.cfg.st ≠ 1) :=
  ⟨⟨up, by decide +kernel⟩,
   ⟨cfgWith (fun c => { c with bootBusy := true }), by decide +kernel⟩,
   ⟨cfgWith (fun c => { c with bootBusy := true, bootAlt := true }), by decide +kernel⟩⟩

theorem witness_LocksHold :
    (∃ (s : State),
      s.serving = true)
    ∧ (∃ (v : Word) (s : State),
      s.serving = true
      ∧ bitAt v.toNat 1 = false
      ∧ bitAt v.toNat 2 = false
      ∧ s.cfg.handoverAck = false
      ∧ s.cfg.fwLock = true)
    ∧ (∃ (v : Word) (s : State),
      s.serving = true
      ∧ bitAt v.toNat 1 = false
      ∧ bitAt v.toNat 2 = false
      ∧ s.cfg.handoverAck = false
      ∧ s.cfg.fwLock = false) :=
  ⟨⟨up, by decide +kernel⟩,
   ⟨0x4000000000000000, cfgWith (fun c => { c with fwLock := true }), by decide +kernel⟩,
   ⟨0x4000000000000000, up, by decide +kernel⟩⟩

theorem witness_FirmwareReloads :
    (∃ (v : Word) (s : State) (a : Act),
      s.serving = true
      ∧ s.cfg.fwLock = true
      ∧ bitAt v.toNat 1 = false
      ∧ bitAt v.toNat 2 = true
      ∧ s.cfg.act = some a
      ∧ isFirmware a.region = true
      ∧ s.cfg.swap = none
      ∧ s.cfg.handoverAck = false)
    ∧ (∃ (v : Word) (s : State),
      s.serving = true
      ∧ s.cfg.fwLock = true
      ∧ bitAt v.toNat 1 = true
      ∧ bitAt v.toNat 2 = false
      ∧ s.cfg.handoverAck = false)
    ∧ (∃ (s : State) (k : Nat),
      s.cfg.swap = some k
      ∧ (k = 13 ∨ k = 14)
      ∧ s.cfg.fwValid = false ∧ s.cfg.act.map (·.region) = some 0x40)
    ∧ (∃ (s : State) (k : Nat),
      s.cfg.swap = some k
      ∧ (k = 13 ∨ k = 14)
      ∧ s.cfg.romHold = true) :=
  ⟨⟨4, { acting 4 0x40 ⟨0x40, false, false, false, true⟩ with cfg := { (acting 4 0x40 ⟨0x40, false, false, false, true⟩).cfg with fwLock := true } }, ⟨0x40, false, false, false, true⟩, by decide +kernel⟩,
   ⟨2, cfgWith (fun c => { c with fwLock := true }), by decide +kernel⟩,
   ⟨{ acting 4 0x40 ⟨0x40, false, false, false, true⟩ with cfg := { (acting 4 0x40 ⟨0x40, false, false, false, true⟩).cfg with swap := some 13 } }, 13, by decide +kernel⟩,
   ⟨{ acting 4 0x40 ⟨0x40, false, false, false, true⟩ with cfg := { (acting 4 0x40 ⟨0x40, false, false, false, true⟩).cfg with swap := some 13, fwValid := true, romHold := true } }, 13, by decide +kernel⟩⟩

theorem witness_ServiceCommands :
    (∃ (n : Fin 12) (v : Word) (s : State),
      s.serving = true
      ∧ n.val < s.nSlices
      ∧ bitAt v.toNat 0 = true
      ∧ (s.slice n).svcGo = true)
    ∧ (∃ (n : Fin 12) (v : Word) (s : State),
      s.serving = true
      ∧ n.val < s.nSlices
      ∧ bitAt v.toNat 0 = true
      ∧ (s.slice n).svcGo = false ∧ field v.toNat 3 1 = 0 ∧ s.cellUsed (64 * n.val + field v.toNat 15 10) = true)
    ∧ (∃ (n : Fin 12) (v : Word) (s : State),
      s.serving = true
      ∧ n.val < s.nSlices
      ∧ bitAt v.toNat 0 = true
      ∧ (s.slice n).svcGo = false ∧ field v.toNat 3 1 = 0 ∧ s.cellUsed (64 * n.val + field v.toNat 15 10) = false ∧ (s.slice n).spareOf (field v.toNat 15 10) = none)
    ∧ (∃ (n : Fin 12) (v : Word) (s : State),
      s.serving = true
      ∧ n.val < s.nSlices
      ∧ bitAt v.toNat 0 = true
      ∧ (s.slice n).svcGo = false ∧ field v.toNat 3 1 = 1 ∧ (s.slice n).isDown (field v.toNat 15 10) = true ∧ (s.slice n).spareState (field v.toNat 9 8) = 0 ∧ s.cfg.st = 0 ∧ (s.region n).broken = false ∧ s.retainedWhole n = true)
    ∧ (∃ (n : Fin 12) (v : Word) (s : State),
      s.serving = true
      ∧ n.val < s.nSlices
      ∧ bitAt v.toNat 0 = true
      ∧ (s.slice n).svcGo = false ∧ field v.toNat 3 1 = 1 ∧ (s.slice n).isDown (field v.toNat 15 10) = false)
    ∧ (∃ (n : Fin 12) (v : Word) (s : State),
      s.serving = true
      ∧ n.val < s.nSlices
      ∧ bitAt v.toNat 0 = true
      ∧ (s.slice n).svcGo = false ∧ field v.toNat 3 1 = 3 ∧ (s.slice n).spares.length = 4 ∧ (s.slice n).spareState (field v.toNat 9 8) = 0)
    ∧ (∃ (n : Fin 12) (v : Word) (s : State),
      s.serving = true
      ∧ n.val < s.nSlices
      ∧ bitAt v.toNat 0 = true
      ∧ (s.slice n).svcGo = false ∧ field v.toNat 3 1 = 3 ∧ (s.slice n).spares.length = 4 ∧ (s.slice n).spareState (field v.toNat 9 8) = 1) :=
  ⟨⟨0, 0x0C01, sliceWith 0 (fun x => { x with svcGo := true }), by decide +kernel⟩,
   ⟨0, 0x0C01, (one ctxUp).setCell 3 cellOf1, by decide +kernel⟩,
   ⟨0, 0x0C01, up, by decide +kernel⟩,
   ⟨0, 0x0C03, sliceWith 0 (fun x => { x with fenced := 8 }), by decide +kernel⟩,
   ⟨0, 0x0C03, up, by decide +kernel⟩,
   ⟨0, 0x0C07, up, by decide +kernel⟩,
   ⟨0, 0x0C07, sliceWith 0 (fun x => { x with spares := x.spares.set 0 ⟨1, 5⟩ }), by decide +kernel⟩⟩

theorem witness_SelfTestEnds :
    (∃ (n : Fin 12) (v : Word) (s : State),
      s.serving = true
      ∧ n.val < s.nSlices
      ∧ bitAt v.toNat 0 = true
      ∧ field v.toNat 3 1 = 2
      ∧ (s.slice n).svcGo = false
      ∧ s.cellDown (64 * n.val + field v.toNat 15 10) = true)
    ∧ (∃ (n : Fin 12) (s : State),
      (s.slice n).svcGo = true
      ∧ s.reimaging n = false
      ∧ (s.slice n).svcOp = 3 ∧ (s.slice n).spares.length = 4)
    ∧ (∃ (n : Fin 12) (s : State),
      (s.slice n).svcGo = true
      ∧ s.reimaging n = false
      ∧ (s.slice n).svcOp = 2 ∧ (s.slice n).spareOf (s.slice n).svcCell.toNat = none) :=
  ⟨⟨0, 0x0C05, sliceWith 0 (fun x => { x with fenced := 8 }), by decide +kernel⟩,
   ⟨0, sliceWith 0 (fun x => { x with svcGo := true, svcOp := 3 }), by decide +kernel⟩,
   ⟨0, sliceWith 0 (fun x => { x with svcGo := true, svcOp := 2, svcCell := 3 }), by decide +kernel⟩⟩

theorem witness_TasterSamples :
    (∃ (s : State),
      s.ready = true
      ∧ s.tasterOn = false)
    ∧ (∃ (s : State),
      s.ready = true
      ∧ s.tasterOn = true ∧ s.tasterRingOk = true ∧ s.outstanding .taster = false)
    ∧ (∃ (s : State),
      s.ready = true
      ∧ s.tasterOn = true ∧ s.tasterRingOk = true ∧ s.outstanding .taster = true)
    ∧ (∃ (s : State),
      s.ready = true
      ∧ s.tasterOn = true ∧ s.tasterRingOk = false) :=
  ⟨⟨up, by decide +kernel⟩,
   ⟨{ glbWith (fun g => { g with tasterCfg := 0x8000000000000001 }) with build := .t4 }, by decide +kernel⟩,
   ⟨withReqs { glbWith (fun g => { g with tasterCfg := 0x8000000000000001 }) with build := .t4 } [reqBy .taster true], by decide +kernel⟩,
   ⟨glbWith (fun g => { g with tasterCfg := 0x803FFFFFFFFC0001 }), by decide +kernel⟩⟩

theorem witness_MessagesLeave :
    (∃ (s : State) (m : Word × BitVec 32) (rest : List (Word × BitVec 32)),
      s.msiIdle = false
      ∧ s.glb.msiQ = m :: rest
      ∧ rest.length < 256
      ∧ s.glb.owed = [])
    ∧ (∃ (s : State) (m : Word × BitVec 32) (rest : List (Word × BitVec 32)),
      s.msiIdle = false
      ∧ s.glb.msiQ = m :: rest
      ∧ rest.length < 256
      ∧ s.glb.owed = [3])
    ∧ (∃ (s : State),
      (bitAt s.clk.islReset.toNat 13 = true ∨ s.tap.pinsHeld = true)) :=
  ⟨⟨glbWith (fun g => { g with msiQ := [(8, 1)] }), (8, 1), [], by decide +kernel⟩,
   ⟨glbWith (fun g => { g with msiQ := [(8, 1)], owed := [3] }), (8, 1), [], by decide +kernel⟩,
   ⟨clkWith (fun k => { k with islReset := 0x2000 }), by decide +kernel⟩⟩

theorem witness_MisalignedWrite : ∃ (a : BitVec 24) (size4 : Bool) (s : State),
    s.cpTakes = true
    ∧ a.toNat % (if size4 then 4 else 8) ≠ 0 :=
  ⟨4, false, up, by decide +kernel⟩

theorem witness_RegisterWrites :
    (∃ (v : Word) (s : State),
      s.serving = true
      ∧ (s.ctx 1).run.st = .stopped ∧ bitAt v.toNat 0 = true ∧ field v.toNat 2 1 = 0)
    ∧ (∃ (v : Word) (s : State),
      s.serving = true
      ∧ (s.ctx 1).run.st ≠ .stopped ∧ bitAt v.toNat 0 = true ∧ field v.toNat 2 1 = 1)
    ∧ (∃ (v : Word) (s : State),
      s.serving = true
      ∧ bitAt v.toNat 0 = false) :=
  ⟨⟨1, up, by decide +kernel⟩,
   ⟨3, nopAt, by decide +kernel⟩,
   ⟨2, up, by decide +kernel⟩⟩

theorem witness_HeldPins : ∃ (s : State),
    s.tap.pinsHeld = true :=
  ⟨{ up with tap := { up.tap with pinsHeld := true } }, by decide +kernel⟩

theorem witness_Instruments : ∃ (s : State),
    s.cellIdle 0 3 = true ∧ s.cellIdle 0 4 = false ∧ (0 : Nat) < s.nSlices :=
  ⟨sliceWith 0 (fun x => { x with fenced := 8 }), by decide +kernel⟩

theorem witness_ProbeTakesPortUp :
    (∃ (p : Fin 18) (s : State),
      s.tap.pinsHeld = false
      ∧ (s.port p).st = 2 ∧ (s.port p).laneMap ≠ 0)
    ∧ (∃ (p : Fin 18) (uid : Word) (s : State),
      s.tap.pinsHeld = false
      ∧ (s.port p).isUp = true ∧ uid ≠ (s.port p).nbr) :=
  ⟨⟨2, netPort (fun x => { x with st := 2 }), by decide +kernel⟩,
   ⟨2, 9, net up, by decide +kernel⟩⟩

theorem witness_LanesComeAndGo :
    (∃ (p : Fin 18) (l : Fin 8) (s : State),
      p.val < s.nPorts
      ∧ s.tap.pinsHeld = false
      ∧ (s.port p).holdLanes = false
      ∧ (s.port p).st = 1 ∧ (s.port p).enable = true ∧ bitAt (s.port p).retire.toNat l = false ∧ s.portLive p = true)
    ∧ (∃ (p : Fin 18) (l : Fin 8) (s : State),
      p.val < s.nPorts
      ∧ s.tap.pinsHeld = false
      ∧ (s.port p).holdLanes = false
      ∧ (s.port p).isUp = true ∧ bitAt (s.port p).active.toNat l = true ∧ (s.port p).ready &&& ~~~(BitVec.ofNat 8 (2 ^ l.val)) &&& ~~~(s.port p).retire ≠ 0)
    ∧ (∃ (p : Fin 18) (l : Fin 8) (s : State),
      p.val < s.nPorts
      ∧ s.tap.pinsHeld = false
      ∧ (s.port p).holdLanes = false
      ∧ (s.port p).isUp = true ∧ bitAt (s.port p).active.toNat l = true ∧ (s.port p).ready &&& ~~~(BitVec.ofNat 8 (2 ^ l.val)) &&& ~~~(s.port p).retire = 0) :=
  ⟨⟨2, 0, up, by decide +kernel⟩,
   ⟨2, 0, net up, by decide +kernel⟩,
   ⟨2, 0, netPort (fun x => { x with active := 1, ready := 1 }), by decide +kernel⟩⟩

theorem witness_LaneMapShared :
    (∃ (p : Fin 18) (m : BitVec 8) (s : State),
      s.tap.pinsHeld = false
      ∧ (s.port p).isUp = true
      ∧ (s.port p).laneMap &&& m ≠ 0)
    ∧ (∃ (p : Fin 18) (m : BitVec 8) (s : State),
      s.tap.pinsHeld = false
      ∧ (s.port p).isUp = true
      ∧ (s.port p).laneMap &&& m = 0)
    ∧ (∃ (p : Fin 18) (m : BitVec 8) (s : State),
      s.tap.pinsHeld = false
      ∧ (s.port p).isUp = true
      ∧ s.fabricPaused = true ∧ (s.port p).laneMap &&& m ≠ 0) :=
  ⟨⟨2, 1, netPort (fun x => { x with paused := true }), by decide +kernel⟩,
   ⟨2, 4, net up, by decide +kernel⟩,
   ⟨2, 1, { netPort (fun x => { x with paused := true }) with cfg := { up.cfg with st := 4, act := some ⟨0x10, false, false, false, false⟩ } }, by decide +kernel⟩⟩

theorem witness_PortConfigured :
    (∃ (p : Fin 18) (v : Word) (s : State),
      s.serving = true
      ∧ p.val < s.nPorts
      ∧ bitAt v.toNat 0 = false)
    ∧ (∃ (p : Fin 18) (v : Word) (s : State),
      s.serving = true
      ∧ p.val < s.nPorts
      ∧ bitAt v.toNat 0 = true ∧ bitAt v.toNat 1 = true)
    ∧ (∃ (p : Fin 18) (v : Word) (s : State),
      s.serving = true
      ∧ p.val < s.nPorts
      ∧ (let retire : BitVec 8 := BitVec.ofNat 8 (field v.toNat 55 48)
      bitAt v.toNat 0 = true ∧ bitAt v.toNat 1 = false ∧ (s.port p).isUp = true ∧ (s.port p).enable = true ∧ (s.port p).holdLanes = false ∧ retire ≠ (s.port p).retire ∧ (s.port p).retire &&& ~~~retire = 0 ∧ (s.port p).ready &&& ~~~retire ≠ 0))
    ∧ (∃ (p : Fin 18) (v : Word) (s : State),
      s.serving = true
      ∧ p.val < s.nPorts
      ∧ (let retire : BitVec 8 := BitVec.ofNat 8 (field v.toNat 55 48)
      bitAt v.toNat 0 = true ∧ bitAt v.toNat 1 = false ∧ (s.port p).isUp = true ∧ (s.port p).enable = true ∧ (s.port p).holdLanes = false ∧ retire ≠ (s.port p).retire ∧ retire &&& ~~~(s.port p).retire = 0 ∧ (s.port p).ready &&& ~~~retire ≠ 0 ∧ s.linkFloor ≤ s.linkPoint))
    ∧ (∃ (p : Fin 18) (v : Word) (s : State),
      s.serving = true
      ∧ p.val < s.nPorts
      ∧ (let retire : BitVec 8 := BitVec.ofNat 8 (field v.toNat 55 48)
      bitAt v.toNat 0 = true ∧ bitAt v.toNat 1 = false ∧ (s.port p).isUp = true ∧ (s.port p).enable = true ∧ (s.port p).holdLanes = false ∧ retire ≠ (s.port p).retire ∧ retire &&& ~~~(s.port p).retire = 0 ∧ (s.port p).ready &&& ~~~retire ≠ 0 ∧ s.linkPoint < s.linkFloor)) :=
  ⟨⟨2, 0, net up, by decide +kernel⟩,
   ⟨2, 3, net up, by decide +kernel⟩,
   ⟨2, 0x0001000000000001, net up, by decide +kernel⟩,
   ⟨2, 1, netPort (fun x => { x with active := 2, retire := 1 }), by decide +kernel⟩,
   ⟨2, 1, { netPort (fun x => { x with active := 2, retire := 1 }) with clk := { up.clk with linkCur := 0 } }, by decide +kernel⟩⟩

theorem witness_AckFrees : ∃ (p : Fin 18) (n : BitVec 16) (s : State),
    s.tap.pinsHeld = false
    ∧ (s.port p).isUp = true
    ∧ (s.port p).txq = []
    ∧ (∃ f ∈ (s.port p).replay, f.seq = n) :=
  ⟨2, 0, netPort (fun x => { x with txSeq := 1, replay := [frame (hdr 0x01 1) []] }), by decide +kernel⟩

theorem witness_Replays :
    (∃ (p : Fin 18) (s : State),
      s.tap.pinsHeld = false
      ∧ (s.port p).isUp = true
      ∧ (s.port p).replay ≠ []
      ∧ ((s.port p).replays < 15 ∧ (∀ f ∈ (s.port p).replay, f.seq ≠ 9) ∧ (s.port p).txq = []))
    ∧ (∃ (p : Fin 18) (s : State),
      s.tap.pinsHeld = false
      ∧ (s.port p).isUp = true
      ∧ (s.port p).replay ≠ []
      ∧ 15 ≤ (s.port p).replays) :=
  ⟨⟨2, netPort (fun x => { x with txSeq := 1, replay := [frame (hdr 0x01 1) []], replays := 14 }), by decide +kernel⟩,
   ⟨2, netPort (fun x => { x with txSeq := 1, replay := [frame (hdr 0x01 1) []], replays := 15 }), by decide +kernel⟩⟩

theorem witness_LinkTimers :
    (∃ (p : Fin 18) (s : State),
      s.tap.pinsHeld = false
      ∧ (s.port p).isUp = true
      ∧ 0 < (s.port p).unacked)
    ∧ (∃ (p : Fin 18) (s : State),
      s.tap.pinsHeld = false
      ∧ ((s.port p).st = 2 ∨ (s.port p).st = 3))
    ∧ (∃ (p : Fin 18) (bytes : List Byte) (s : State),
      s.tap.pinsHeld = false
      ∧ (s.port p).isUp = true
      ∧ badBytes (s.port p) bytes = true
      ∧ p.val < s.nPorts)
    ∧ (∃ (p : Fin 18) (bytes : List Byte) (words : List (Fin 8 × List Nat)) (s : State),
      s.tap.pinsHeld = false
      ∧ (s.port p).isUp = true
      ∧ badBytes (s.port p) bytes = true
      ∧ (s.port p).nakSent = true ∧ badLanes words = []) :=
  ⟨⟨2, netPort (fun x => { x with unacked := 3, rxUsed := [1, 0, 0, 0] }), by decide +kernel⟩,
   ⟨2, net up, by decide +kernel⟩,
   ⟨2, [1, 2], net up, by decide +kernel⟩,
   ⟨2, [1, 2], [], netPort (fun x => { x with nakSent := true }), by decide +kernel⟩⟩

theorem witness_FramesForward :
    (∃ (p : Fin 18) (f : Frame) (s : State),
      p.val < s.nPorts
      ∧ s.tap.pinsHeld = false
      ∧ s.isLocal f = false
      ∧ (s.port p).isUp = true
      ∧ f.seq = (s.port p).rxSeq
      ∧ sourceRouted f.hdr.op.toNat = false
      ∧ f.hdr.hops = 0)
    ∧ (∃ (p : Fin 18) (f : Frame) (s : State),
      p.val < s.nPorts
      ∧ s.tap.pinsHeld = false
      ∧ s.isLocal f = false
      ∧ (s.port p).isUp = true
      ∧ f.seq = (s.port p).rxSeq
      ∧ sourceRouted f.hdr.op.toNat = false
      ∧ f.hdr.hops ≠ 0 ∧ s.routeOf f.hdr = some 2) :=
  ⟨⟨2, frame { hdr 0x01 7 with dst := 9, hops := 0 } [], net up, by decide +kernel⟩,
   ⟨2, frame { hdr 0x01 7 with dst := 9, hops := 5 } [], net up, by decide +kernel⟩⟩

theorem witness_ReadServed :
    (∃ (p : Ingress) (f : Frame) (s : State),
      s.Arrives p 0x01 f
      ∧ s.crossRuns = true
      ∧ s.Resolved p ∧ s.OwnerReady ⟨p, f, 0⟩ ∧ s.frameCheck ⟨p, f, 0⟩ false = .ok 1 0 0 ∧ s.ownerHold 1 0 false = false ∧ f.hdr.len ≠ 0)
    ∧ (∃ (p : Ingress) (f : Frame) (s : State),
      s.Arrives p 0x01 f
      ∧ s.crossRuns = true
      ∧ s.Resolved p ∧ s.OwnerReady ⟨p, f, 0⟩ ∧ s.frameCheck ⟨p, f, 0⟩ false = .ok 1 0 0 ∧ s.ownerHold 1 0 false = true)
    ∧ (∃ (p : Ingress) (f : Frame) (s : State),
      s.Arrives p 0x01 f
      ∧ s.crossRuns = true
      ∧ s.Resolved p ∧ s.OwnerReady ⟨p, f, 0⟩ ∧ s.frameCheck ⟨p, f, 0⟩ false = .fail 0x0D ∧ s.Reaches f.hdr.src)
    ∧ (∃ (p : Ingress) (f : Frame) (s : State),
      s.Arrives p 0x01 f
      ∧ s.crossRuns = true
      ∧ ¬ s.Resolved p ∧ s.ledgerA < 12 ∧ s.stackState s.ledgerA ≠ 3)
    ∧ (∃ (p : Ingress) (f : Frame) (s : State),
      s.Arrives p 0x01 f
      ∧ s.crossRuns = true
      ∧ s.Resolved p ∧ ¬ s.OwnerReady ⟨p, f, 0⟩) :=
  ⟨⟨none, frame { hdr 0x01 1 with w2 := packW2 0 0 4 } [], looped (owner ctxUp) (frame { hdr 0x01 1 with w2 := packW2 0 0 4 } []) false, by decide +kernel⟩,
   ⟨none, frame { hdr 0x01 1 with w2 := packW2 0 0 4 } [], looped (owner (genWith ctxUp (fun g => { g with flip := .begun, writeSet := [0] }))) (frame { hdr 0x01 1 with w2 := packW2 0 0 4 } []) false, by decide +kernel⟩,
   ⟨some 2, frame { hdr 0x01 7 with w2 := packW2 0 0 4 } [], net up, by
    refine ⟨?_, ?_, ?_, ?_, ?_, ?_⟩ <;> first | decide +kernel | exact reaches_net _ rfl (by decide +kernel) _⟩,
   ⟨some 2, frame { hdr 0x01 7 with w2 := packW2 0 0 4 } [], net (owner ctxUp), by decide +kernel⟩,
   ⟨none, frame { hdr 0x01 1 with w2 := packW2 0 0 4 } [], looped (owner ({ ctxUp with win := Ctx.reset.win })) (frame { hdr 0x01 1 with w2 := packW2 0 0 4 } []) false, by decide +kernel⟩⟩

theorem witness_RequestResolved :
    (∃ (k : Fin 12) (tag : BitVec 10) (s : State) (r : Req) (a : Arrival),
      s.stackState k ≠ 3
      ∧ s.crossRuns = true
      ∧ (s.stackPort k).find false tag.toNat = some r
      ∧ r.by_ = .resolve a
      ∧ s.xb.held = []
      ∧ s.responseHeld r = false
      ∧ s.fab.resolving = [a]
      ∧ s.fab.heldWrites = []
      ∧ s.fab.ledgerQ = []
      ∧ s.ownerMisses a = []
      ∧ (∀ j, ∀ q ∈ (s.stackPort j).wait, q.by_ ≠ .resolve a)
      ∧ (∀ j, ∀ q ∈ (s.stackPort j).reqs, q.by_ = .resolve a → j = k.val ∧ q.write = false ∧ q.tag = some tag.toNat)
      ∧ s.nextRewrite [a.frame.hdr.entry / 8] = none ∧ a.frame.hdr.op = 0x01)
    ∧ (∃ (k : Fin 12) (tag : BitVec 10) (s : State) (r : Req) (a : Arrival),
      s.stackState k ≠ 3
      ∧ s.crossRuns = true
      ∧ (s.stackPort k).find false tag.toNat = some r
      ∧ r.by_ = .resolve a
      ∧ s.xb.held = []
      ∧ s.responseHeld r = false
      ∧ s.fab.resolving = [a]
      ∧ s.fab.heldWrites = []
      ∧ s.fab.ledgerQ = []
      ∧ s.ownerMisses a = []
      ∧ (∀ j, ∀ q ∈ (s.stackPort j).wait, q.by_ ≠ .resolve a)
      ∧ (∀ j, ∀ q ∈ (s.stackPort j).reqs, q.by_ = .resolve a → j = k.val ∧ q.write = false ∧ q.tag = some tag.toNat)
      ∧ s.nextRewrite [a.frame.hdr.entry / 8] = none ∧ a.frame.hdr.op = 0x03 ∧ replaces a.frame)
    ∧ (∃ (k : Fin 12) (tag : BitVec 10) (s : State) (r : Req) (a : Arrival),
      s.stackState k ≠ 3
      ∧ s.crossRuns = true
      ∧ (s.stackPort k).find false tag.toNat = some r
      ∧ r.by_ = .resolve a
      ∧ s.xb.held = []
      ∧ s.responseHeld r = false
      ∧ s.fab.resolving = [a]
      ∧ s.fab.heldWrites = []
      ∧ s.fab.ledgerQ = []
      ∧ s.ownerMisses a = []
      ∧ (∀ j, ∀ q ∈ (s.stackPort j).wait, q.by_ ≠ .resolve a)
      ∧ (∀ j, ∀ q ∈ (s.stackPort j).reqs, q.by_ = .resolve a → j = k.val ∧ q.write = false ∧ q.tag = some tag.toNat)
      ∧ s.nextRewrite [a.frame.hdr.entry / 8] = some (0, [0]) ∧ s.walkerFree 0 = true) :=
  ⟨⟨0, 3, resolving (owner ctxUp) (frame { hdr 0x01 7 with w2 := packW2 0 0 4 } []), reqBy (.resolve ⟨some 2, frame { hdr 0x01 7 with w2 := packW2 0 0 4 } [], 0⟩) false, ⟨some 2, frame { hdr 0x01 7 with w2 := packW2 0 0 4 } [], 0⟩, by
    refine ⟨?_, ?_, ?_, ?_, ?_, ?_, ?_, ?_, ?_, ?_, ?_, ?_, ?_, ?_⟩ <;> first | decide +kernel | exact one_port_wait rfl (by decide +kernel) | exact one_port_reqs rfl (by decide +kernel)⟩,
   ⟨0, 3, resolving (owner ctxUp) (frame { hdr 0x03 7 with w2 := packW2 0 0 2, fgen := 0 } [5, 6]), reqBy (.resolve ⟨some 2, frame { hdr 0x03 7 with w2 := packW2 0 0 2, fgen := 0 } [5, 6], 0⟩) false, ⟨some 2, frame { hdr 0x03 7 with w2 := packW2 0 0 2, fgen := 0 } [5, 6], 0⟩, by
    refine ⟨?_, ?_, ?_, ?_, ?_, ?_, ?_, ?_, ?_, ?_, ?_, ?_, ?_, ?_, ?_⟩ <;> first | decide +kernel | exact one_port_wait rfl (by decide +kernel) | exact one_port_reqs rfl (by decide +kernel)⟩,
   ⟨0, 3, resolving ({ owner ctxUp with stks := [(0, ledgerMem 1), (1, (ledgerMem 1).write 7 [0x81])] }) (frame { hdr 0x01 7 with w2 := packW2 0 0 4 } []), reqBy (.resolve ⟨some 2, frame { hdr 0x01 7 with w2 := packW2 0 0 4 } [], 0⟩) false, ⟨some 2, frame { hdr 0x01 7 with w2 := packW2 0 0 4 } [], 0⟩, by
    refine ⟨?_, ?_, ?_, ?_, ?_, ?_, ?_, ?_, ?_, ?_, ?_, ?_, ?_, ?_⟩ <;> first | decide +kernel | exact one_port_wait rfl (by decide +kernel) | exact one_port_reqs rfl (by decide +kernel)⟩⟩

theorem witness_WriteServed :
    (∃ (p : Ingress) (f : Frame) (s : State),
      s.Arrives p 0x03 f
      ∧ s.crossRuns = true
      ∧ s.Resolved p ∧ s.OwnerReady ⟨p, f, 0⟩ ∧ s.frameCheck ⟨p, f, 0⟩ true = .ok 1 0 0 ∧ replaces f ∧ s.ownerHold 1 0 (decide (f.hdr.fgen ≠ 0)) = false)
    ∧ (∃ (p : Ingress) (f : Frame) (s : State),
      s.Arrives p 0x03 f
      ∧ s.crossRuns = true
      ∧ s.Resolved p ∧ s.OwnerReady ⟨p, f, 0⟩ ∧ s.frameCheck ⟨p, f, 0⟩ true = .ok 1 0 0 ∧ replaces f ∧ (s.winEff 1 0).aside = false)
    ∧ (∃ (p : Ingress) (f : Frame) (s : State),
      s.Arrives p 0x03 f
      ∧ s.crossRuns = true
      ∧ s.Resolved p ∧ s.OwnerReady ⟨p, f, 0⟩ ∧ s.frameCheck ⟨p, f, 0⟩ true = .fail 0x0D ∧ replaces f ∧ s.Reaches f.hdr.src)
    ∧ (∃ (p : Ingress) (f : Frame) (s : State),
      s.Arrives p 0x03 f
      ∧ s.crossRuns = true
      ∧ s.Resolved p ∧ s.OwnerReady ⟨p, f, 0⟩ ∧ s.frameCheck ⟨p, f, 0⟩ true = .hold ∧ replaces f)
    ∧ (∃ (p : Ingress) (f : Frame) (s : State),
      s.Arrives p 0x03 f
      ∧ s.crossRuns = true
      ∧ s.Resolved p ∧ s.OwnerReady ⟨p, f, 0⟩ ∧ s.frameCheck ⟨p, f, 0⟩ true = .ok 1 0 0 ∧ replaces f ∧ s.ownerHold 1 0 (decide (f.hdr.fgen ≠ 0)) = true)
    ∧ (∃ (p : Ingress) (f : Frame) (s : State),
      s.Arrives p 0x03 f
      ∧ s.crossRuns = true
      ∧ s.Resolved p ∧ s.OwnerReady ⟨p, f, 0⟩ ∧ s.frameCheck ⟨p, f, 0⟩ true = .ok 1 0 0 ∧ combines f ∧ s.ownerHold 1 0 (decide (f.hdr.fgen ≠ 0)) = false ∧ s.freeMaster ((s.winEff 1 0).xlate (writeRegion (s.winEff 1 0) f.hdr.fgen) ((Arrival.fold ⟨p, f, 0⟩ 0).off)).1 = some 24)
    ∧ (∃ (p : Ingress) (f : Frame) (s : State),
      s.Arrives p 0x03 f
      ∧ s.crossRuns = true
      ∧ s.Resolved p ∧ s.OwnerReady ⟨p, f, 0⟩ ∧ s.frameCheck ⟨p, f, 0⟩ true = .ok 1 0 0 ∧ combines f ∧ s.ownerHold 1 0 (decide (f.hdr.fgen ≠ 0)) = false ∧ s.freeMaster ((s.winEff 1 0).xlate (writeRegion (s.winEff 1 0) f.hdr.fgen) ((Arrival.fold ⟨p, f, 0⟩ 0).off)).1 = none)
    ∧ (∃ (p : Ingress) (f : Frame) (s : State),
      s.Arrives p 0x03 f
      ∧ s.crossRuns = true
      ∧ ¬ s.Resolved p ∧ s.ledgerA < 12 ∧ s.stackState s.ledgerA ≠ 3)
    ∧ (∃ (p : Ingress) (f : Frame) (s : State),
      s.Arrives p 0x03 f
      ∧ s.crossRuns = true
      ∧ s.Resolved p ∧ ¬ s.OwnerReady ⟨p, f, 0⟩) :=
  ⟨⟨none, frame { hdr 0x03 1 with w2 := packW2 0 0 2, fgen := 0 } [5, 6], looped (owner ctxUp) (frame { hdr 0x03 1 with w2 := packW2 0 0 2, fgen := 0 } [5, 6]) true, by decide +kernel⟩,
   ⟨none, frame { hdr 0x03 1 with w2 := packW2 0 0 2, fgen := 0 } [5, 6], looped (owner plainWin) (frame { hdr 0x03 1 with w2 := packW2 0 0 2, fgen := 0 } [5, 6]) true, by decide +kernel⟩,
   ⟨some 2, frame { hdr 0x03 7 with w2 := packW2 0 0 2, fgen := 0 } [5, 6], net up, by
    refine ⟨?_, ?_, ?_, ?_, ?_, ?_, ?_⟩ <;> first | decide +kernel | exact reaches_net _ rfl (by decide +kernel) _⟩,
   ⟨none, frame { hdr 0x03 1 with w2 := packW2 0 0 2, fgen := 4 } [5, 6], looped (owner (genWith ctxUp (fun g => { g with member := .joining }))) (frame { hdr 0x03 1 with w2 := packW2 0 0 2, fgen := 4 } [5, 6]) true, by decide +kernel⟩,
   ⟨none, frame { hdr 0x03 1 with w2 := packW2 0 0 2, fgen := 4 } [5, 6], looped (owner { (genWith ctxUp (fun g => { g with isOpen := true, fab := true, fgen := 4 })) with recs := [(0, lagRec)] }) (frame { hdr 0x03 1 with w2 := packW2 0 0 2, fgen := 4 } [5, 6]) true, by decide +kernel⟩,
   ⟨none, frame { hdr 0x03 1 with w2 := packW2 0 0 2, w3 := 0x6000000000000000 } [5, 6], looped (owner ctxUp) (frame { hdr 0x03 1 with w2 := packW2 0 0 2, w3 := 0x6000000000000000 } [5, 6]) true, by decide +kernel⟩,
   ⟨none, frame { hdr 0x03 1 with w2 := packW2 0 0 2, w3 := 0x6000000000000000 } [5, 6], { looped (owner ctxUp) (frame { hdr 0x03 1 with w2 := packW2 0 0 2, w3 := 0x6000000000000000 } [5, 6]) true with xb := { up.xb with locks := [⟨24, 0, .ledger lreq⟩] } }, by decide +kernel⟩,
   ⟨some 2, frame { hdr 0x03 7 with w2 := packW2 0 0 2, fgen := 0 } [5, 6], net (owner ctxUp), by decide +kernel⟩,
   ⟨none, frame { hdr 0x03 1 with w2 := packW2 0 0 2, fgen := 0 } [5, 6], looped (owner ({ ctxUp with win := Ctx.reset.win })) (frame { hdr 0x03 1 with w2 := packW2 0 0 2, fgen := 0 } [5, 6]) true, by decide +kernel⟩⟩

theorem witness_AnswerLeaves :
    (∃ (k : Fin 12) (tag : BitVec 10) (write : Bool) (s : State) (r : Req) (c : Nat) (w : Nat) (g : Frame),
      s.stackState k ≠ 3
      ∧ s.crossRuns = true
      ∧ (s.stackPort k).find write tag.toNat = some r
      ∧ r.by_ = .remote c w
      ∧ r.ackTo = some g
      ∧ s.xb.held = []
      ∧ s.responseHeld r = false
      ∧ s.fab.resolving = []
      ∧ s.fab.heldWrites = []
      ∧ s.fab.ledgerQ = []
      ∧ (let last := (∀ j, ∀ q ∈ (s.stackPort j).wait, q.ackTo ≠ some g)
        ∧ ∀ j, ∀ q ∈ (s.stackPort j).reqs, q.ackTo = some g → j = k.val ∧ q.write = write ∧ q.tag = some tag.toNat
      last ∧ s.Reaches g.hdr.dst))
    ∧ (∃ (k : Fin 12) (tag : BitVec 10) (write : Bool) (s : State) (r : Req) (c : Nat) (w : Nat) (g : Frame),
      s.stackState k ≠ 3
      ∧ s.crossRuns = true
      ∧ (s.stackPort k).find write tag.toNat = some r
      ∧ r.by_ = .remote c w
      ∧ r.ackTo = some g
      ∧ s.xb.held = []
      ∧ s.responseHeld r = false
      ∧ s.fab.resolving = []
      ∧ s.fab.heldWrites = []
      ∧ s.fab.ledgerQ = []
      ∧ (let last := (∀ j, ∀ q ∈ (s.stackPort j).wait, q.ackTo ≠ some g)
        ∧ ∀ j, ∀ q ∈ (s.stackPort j).reqs, q.ackTo = some g → j = k.val ∧ q.write = write ∧ q.tag = some tag.toNat
      ¬ last)) :=
  ⟨⟨0, 3, false, withReqs (net up) [{ reqBy (.remote 1 0) false with ackTo := some (frame (hdr 0x02 1) [7]) }], { reqBy (.remote 1 0) false with ackTo := some (frame (hdr 0x02 1) [7]) }, 1, 0, frame (hdr 0x02 1) [7], by decide +kernel, by decide +kernel, by decide +kernel, rfl, rfl, rfl, by decide +kernel, rfl, rfl, rfl, ⟨one_port_wait rfl (by decide +kernel), one_port_reqs rfl (by decide +kernel)⟩, reaches_net _ rfl (by decide +kernel) _⟩,
   ⟨0, 3, false, withReqs (net up) [{ reqBy (.remote 1 0) false with ackTo := some (frame (hdr 0x02 1) [7]) }, { { reqBy (.remote 1 0) false with ackTo := some (frame (hdr 0x02 1) [7]) } with tag := some 4 }], { reqBy (.remote 1 0) false with ackTo := some (frame (hdr 0x02 1) [7]) }, 1, 0, frame (hdr 0x02 1) [7], by decide +kernel, by decide +kernel, by decide +kernel, rfl, rfl, rfl, by decide +kernel, rfl, rfl, rfl, fun h => absurd (h.2 0 { { reqBy (.remote 1 0) false with ackTo := some (frame (hdr 0x02 1) [7]) } with tag := some 4 } (by decide +kernel) rfl) (by decide +kernel)⟩⟩

theorem witness_ReadLands : ∃ (p : Ingress) (f : Frame) (s : State) (x : Txn) (i : Cur),
    s.Arrives p 0x02 f
    ∧ f.hdr.status = 0
    ∧ s.fab.txns.find? (fun t => decide (t.txn = f.hdr.txn ∧ t.write = false)) = some x
    ∧ s.fab.waiting = []
    ∧ s.head x.ctx = some i
    ∧ i.is opRget = true
    ∧ (∀ e ∈ x.dest, ∃ g, (s.destAt x.ctx i e.1).2.place = .cell g)
    ∧ x.dest.Pairwise (fun a b => Loc.Apart (s.destAt x.ctx i a.1).2 (s.destAt x.ctx i b.1).2) :=
  ⟨some 2, readAnswer, rgetWaits rgetTxn, rgetTxn, inPhase rgetCur .moved, by
    refine ⟨?_, ?_, ?_, ?_, ?_, ?_, ?_, ?_⟩ <;> first | decide +kernel | exact rget_places⟩

theorem witness_AnswersAtRequester :
    (∃ (p : Ingress) (f : Frame) (s : State),
      s.Arrives p 0x04 f
      ∧ s.fab.txns.find? (fun t => decide (t.txn = f.hdr.txn ∧ t.write = true)) = none)
    ∧ (∃ (p : Ingress) (f : Frame) (s : State),
      s.Arrives p 0x04 f
      ∧ s.fab.txns.find? (fun t => decide (t.txn = f.hdr.txn ∧ t.write = true)) = some putTxn ∧ f.hdr.status = 0 ∧ s.fab.waiting = [])
    ∧ (∃ (p : Ingress) (f : Frame) (s : State),
      s.Arrives p 0x04 f
      ∧ s.fab.txns.find? (fun t => decide (t.txn = f.hdr.txn ∧ t.write = true)) = some putTxn ∧ f.hdr.status = 0x04)
    ∧ (∃ (p : Ingress) (f : Frame) (s : State),
      s.Arrives p 0x04 f
      ∧ s.fab.txns.find? (fun t => decide (t.txn = f.hdr.txn ∧ t.write = true)) = some putTxn ∧ f.hdr.status ≠ 0 ∧ f.hdr.status ≠ 0x04 ∧ s.head 1 = some (inPhase rputCur .moved) ∧ s.active 1 = true ∧ (inPhase rputCur .moved).isFabric = true ∧ (s.ctx 1).gen.abortBit = false) :=
  ⟨⟨some 2, frame { hdr 0x04 5 with status := 0 } [], rgetWaits rgetTxn, by decide +kernel⟩,
   ⟨some 2, frame { hdr 0x04 5 with status := 0 } [], rputWaits putTxn, by decide +kernel⟩,
   ⟨some 2, frame { hdr 0x04 5 with status := 4 } [], rputWaits putTxn, by decide +kernel⟩,
   ⟨some 2, frame { hdr 0x04 5 with status := 3 } [], rputWaits putTxn, by decide +kernel⟩⟩

theorem witness_RequestsTimeOut :
    (∃ (n : BitVec 16) (s : State) (x : Txn),
      s.fab.txns.find? (fun t => decide (t.txn = n)) = some x
      ∧ x.write = false ∧ x.resident = false ∧ x.retries < 3)
    ∧ (∃ (n : BitVec 16) (s : State) (x : Txn),
      s.fab.txns.find? (fun t => decide (t.txn = n)) = some x
      ∧ x.write = true ∧ (match s.replicaOf x 0x0A with | .error k => decide (k = 0x0A) | .ok _ => false) = true ∧ s.head 1 = some (inPhase rputCur .moved) ∧ s.active 1 = true ∧ (inPhase rputCur .moved).isFabric = true ∧ (s.ctx 1).gen.abortBit = false)
    ∧ (∃ (n : BitVec 16) (s : State) (x : Txn),
      s.fab.txns.find? (fun t => decide (t.txn = n)) = some x
      ∧ x.resident = true ∧ s.Reaches x.frame.hdr.dst) :=
  ⟨⟨3, rgetWaits rgetTxn, rgetTxn, by decide +kernel⟩,
   ⟨3, rputWaits putTxn, putTxn, by decide +kernel⟩,
   ⟨3, rputWaits { putTxn with resident := true }, { putTxn with resident := true }, by
    refine ⟨?_, ?_, ?_⟩ <;> first | decide +kernel | exact reaches_net _ rfl (by decide +kernel) _⟩⟩

theorem witness_RgetSendsReads :
    (∃ (c : Fin 64) (s : State) (i : Cur),
      s.Begins c opRget i
      ∧ s.fabricWaits c i = false
      ∧ (s.ctx c).gen.abortBit = false
      ∧ (s.ctx c).gen.member ≠ .aborted
      ∧ (let b := s.begun c i
      (i.descAt 0 = some (globalVec 4) ∧ i.slotSpace 3 = 1 ∧ b.1.gatherFault c b.2 0 (fun w => decide (b.2.fabricPos ≤ w)) = none ∧ (∀ r ∈ b.1.rgetRuns c b.2 (globalVec 4) (i.ledgerOf 0).2.1 (fun w => decide (b.2.fabricPos ≤ w)), (match b.1.lookup (r.entry (i.ledgerOf 0).1 (i.ledgerOf 0).2.1) with | .ok o => decide (o.node ≠ s.fab.addr) | .error _ => false) = true) ∧ b.1.rgetRuns c b.2 (globalVec 4) (i.ledgerOf 0).2.1 (fun w => decide (b.2.fabricPos ≤ w)) ≠ [])))
    ∧ (∃ (c : Fin 64) (s : State) (i : Cur),
      s.Begins c opRget i
      ∧ s.fabricWaits c i = false
      ∧ (s.ctx c).gen.abortBit = false
      ∧ (s.ctx c).gen.member ≠ .aborted
      ∧ (let b := s.begun c i
      b.1.gatherFault c b.2 0 (fun w => decide (b.2.fabricPos ≤ w)) ≠ none)) :=
  ⟨⟨1, fabAt rgetCur 5, rgetCur, by decide +kernel⟩,
   ⟨1, indexed (fabAt rgetCur 5) 9, rgetCur, by decide +kernel⟩⟩

theorem witness_RputSendsWrites : ∃ (c : Fin 64) (s : State) (i : Cur) (d : TDesc),
    s.Begins c opRput i
    ∧ s.fabricWaits c i = false
    ∧ (s.ctx c).gen.member ≠ .aborted
    ∧ i.descAt 2 = some d
    ∧ (let b := s.begun c i
    (let all := b.1.rputAll c b.2 d (i.ledgerOf 2).2.1 (fun w => decide (b.2.fabricPos ≤ w))
    (let sent := all.1.flatMap (fun r => b.1.copiesOf (r.1.entry (i.ledgerOf 2).1 (i.ledgerOf 2).2.1))
    (b.1.rputFault c b.2 = none ∧ (∀ e ∈ sent, (match b.1.lookup e with | .ok o => decide (o.node ≠ s.fab.addr) | .error _ => false) = true) ∧ sent ≠ [])))) :=
  ⟨1, indexed (fabAt rputCur 5) 1, rputCur, globalVec 4, by decide +kernel⟩

theorem witness_ReshardWithoutBlocks :
    (∃ (c : Fin 64) (s : State) (i : Cur) (a : TDesc) (d : TDesc),
      s.Begins c opReshard i
      ∧ s.fabricWaits c i = false
      ∧ i.descAt 0 = some a
      ∧ i.descAt 2 = some d
      ∧ (let b := s.begun c i
      (s.ctx c).gen.member ≠ .aborted ∧ b.1.sourceFault (i.ledgerOf 0).1 (i.ledgerOf 0).2.2 = none ∧ b.1.blocksToSend c (i.ledgerOf 0).1 (i.ledgerOf 0).2.2 (fun w => decide (i.fabricPos ≤ w)) = []))
    ∧ (∃ (c : Fin 64) (s : State) (i : Cur) (a : TDesc) (d : TDesc),
      s.Begins c opReshard i
      ∧ s.fabricWaits c i = false
      ∧ i.descAt 0 = some a
      ∧ i.descAt 2 = some d
      ∧ (s.ctx c).gen.member = .aborted ∧ (s.ctx c).gen.abortBit = false) :=
  ⟨⟨1, fabAt reshardCur 5, reshardCur, globalVec 4, globalVec 4, by decide +kernel⟩,
   ⟨1, net (withLedger (one (genWith (ctxAt reshardCur) (fun g => { g with member := .aborted }))) 5), reshardCur, globalVec 4, globalVec 4, by decide +kernel⟩⟩

theorem witness_ReshardSendsBlock : ∃ (c : Fin 64) (s : State) (i : Cur) (a : TDesc) (d : TDesc) (num : Nat),
    s.Begins c opReshard i
    ∧ s.fabricWaits c i = false
    ∧ i.descAt 0 = some a
    ∧ i.descAt 2 = some d
    ∧ (s.ctx c).gen.member ≠ .aborted
    ∧ (let b := s.begun c i
    (let src := i.ledgerOf 0
    (let dst := i.ledgerOf 2
    b.1.sourceFault src.1 src.2.2 = none
    ∧ b.1.blocksToSend c src.1 src.2.2 (fun w => decide (b.2.fabricPos ≤ w)) = [num]
    ∧ (b.1.ownerCheck false (src.1 + num) 0 src.2.1 src.2.1 (b.1.homeOf (src.1 + num)) 0 = .ok 1 0 0 ∧ (let runs := runsOf true dst.2.1 (fmtBits d.f) (b.1.blockItems a d src.2.1 num (1, 0) (b.1.winEff 1 0) 0)
      let sent := runs.flatMap (fun r => b.1.copiesOf (r.entry dst.1 dst.2.1))
      (∀ e ∈ (src.1 + num) :: sent, (match b.1.lookup e with | .ok _ => true | .error _ => false) = true) ∧ (∀ e ∈ sent, b.1.ownerNode e ≠ s.fab.addr) ∧ sent ≠ []))))) :=
  ⟨1, fabAt reshardCur 1, reshardCur, globalVec 4, globalVec 4, 0, by decide +kernel⟩

theorem witness_JoinsOpen :
    (∃ (p : Ingress) (f : Frame) (s : State) (x : Coord),
      s.Arrives p 0x08 f
      ∧ s.coordGet (gidOf f) = some x
      ∧ x.decided = none
      ∧ x.forming = true
      ∧ (let members := f.hdr.boff % 2 ^ 20 + 1
      (let who := (f.hdr.src.toNat, f.hdr.ctx.toNat)
      x.members = members ∧ who ∈ x.joins ∧ x.joins.length ≠ members)))
    ∧ (∃ (p : Ingress) (f : Frame) (s : State) (x : Coord),
      s.Arrives p 0x08 f
      ∧ s.coordGet (gidOf f) = some x
      ∧ x.decided = none
      ∧ x.forming = true
      ∧ (let members := f.hdr.boff % 2 ^ 20 + 1
      (let who := (f.hdr.src.toNat, f.hdr.ctx.toNat)
      x.members = members ∧ who ∉ x.joins ∧ x.joins.length + 1 ≠ members)))
    ∧ (∃ (p : Ingress) (f : Frame) (s : State) (x : Coord),
      s.Arrives p 0x08 f
      ∧ s.coordGet (gidOf f) = some x
      ∧ x.decided = none
      ∧ x.forming = true
      ∧ (let members := f.hdr.boff % 2 ^ 20 + 1
      x.members ≠ members))
    ∧ (∃ (p : Ingress) (f : Frame) (s : State) (x : Coord),
      s.Arrives p 0x08 f
      ∧ s.coordGet (gidOf f) = some x
      ∧ x.decided = none
      ∧ x.forming = true
      ∧ (let members := f.hdr.boff % 2 ^ 20 + 1
      (let who := (f.hdr.src.toNat, f.hdr.ctx.toNat)
      x.members = members ∧ who ∉ x.joins ∧ x.joins.length + 1 = members ∧ s.Reaches 7 ∧ s.Reaches 8))) :=
  ⟨⟨some 2, genFrame 0x08 1 0, coordState (record [(7, 1)] [] true none), record [(7, 1)] [] true none, by decide +kernel⟩,
   ⟨some 2, genFrame 0x08 1 0, coordState (record [] [] true none), record [] [] true none, by decide +kernel⟩,
   ⟨some 2, genFrame 0x08 2 0, coordState (record [] [] true none), record [] [] true none, by decide +kernel⟩,
   ⟨some 2, genFrame 0x08 1 0, coordState (record [(8, 2)] [] true none), record [(8, 2)] [] true none, by
    refine ⟨?_, ?_, ?_, ?_, ?_, ?_, ?_, ?_, ?_⟩ <;> first | decide +kernel | exact reaches_net _ rfl (by decide +kernel) _⟩⟩

theorem witness_VotesDecide :
    (∃ (p : Ingress) (f : Frame) (s : State) (x : Coord),
      s.Arrives p 0x0A f
      ∧ s.coordGet (gidOf f) = some x
      ∧ x.decided = none
      ∧ x.forming = false
      ∧ x.fgen = f.hdr.fgen
      ∧ (let who := (f.hdr.src.toNat, f.hdr.ctx.toNat)
      who ∈ x.joins
      ∧ who ∉ x.votes
      ∧ x.votes.length + 1 ≠ x.members))
    ∧ (∃ (p : Ingress) (f : Frame) (s : State) (x : Coord),
      s.Arrives p 0x0A f
      ∧ s.coordGet (gidOf f) = some x
      ∧ x.decided = none
      ∧ x.forming = false
      ∧ x.fgen = f.hdr.fgen
      ∧ (let who := (f.hdr.src.toNat, f.hdr.ctx.toNat)
      who ∈ x.joins
      ∧ who ∉ x.votes
      ∧ x.votes.length + 1 = x.members ∧ s.Reaches 7 ∧ s.Reaches 8)) :=
  ⟨⟨some 2, genFrame 0x0A 0 4, coordState (record [(7, 1), (8, 2)] [] false none), record [(7, 1), (8, 2)] [] false none, by decide +kernel⟩,
   ⟨some 2, genFrame 0x0A 0 4, coordState (record [(7, 1), (8, 2)] [(8, 2)] false none), record [(7, 1), (8, 2)] [(8, 2)] false none, by
    refine ⟨?_, ?_, ?_, ?_, ?_, ?_, ?_, ?_, ?_, ?_⟩ <;> first | decide +kernel | exact reaches_net _ rfl (by decide +kernel) _⟩⟩

theorem witness_AbortDecided :
    (∃ (p : Ingress) (f : Frame) (s : State) (x : Coord),
      s.Arrives p 0x0C f
      ∧ s.coordGet (gidOf f) = some x
      ∧ x.decided = none ∧ f.hdr.fgen = 0 ∧ s.Reaches 8)
    ∧ (∃ (p : Ingress) (f : Frame) (s : State) (x : Coord),
      s.Arrives p 0x0C f
      ∧ s.coordGet (gidOf f) = some x
      ∧ x.decided = none ∧ f.hdr.fgen = x.named)
    ∧ (∃ (p : Ingress) (f : Frame) (s : State) (x : Coord),
      s.Arrives p 0x0C f
      ∧ s.coordGet (gidOf f) = some x
      ∧ x.decided ≠ none)
    ∧ (∃ (k : Nat) (s : State) (x : Coord),
      s.coordGet (BitVec.ofNat 16 k) = some x
      ∧ x.decided = none ∧ x.forming = true ∧ x.joins ≠ [])
    ∧ (∃ (k : Nat) (s : State) (x : Coord),
      s.coordGet (BitVec.ofNat 16 k) = some x
      ∧ x.decided = none ∧ x.forming = false ∧ x.votes ≠ [])
    ∧ (∃ (k : Nat) (s : State) (x : Coord),
      s.coordGet (BitVec.ofNat 16 k) = some x
      ∧ x.decided ≠ none)
    ∧ (∃ (p : Ingress) (f : Frame) (s : State) (x : Coord) (b : Bool),
      s.Arrives p 0x0D f
      ∧ s.coordGet (gidOf f) = some x
      ∧ x.decided = some b
      ∧ x.forming = false
      ∧ x.fgen = f.hdr.fgen
      ∧ s.Reaches f.hdr.src) :=
  ⟨⟨some 2, genFrame 0x0C 0 0, coordState (record [(8, 2)] [] true none), record [(8, 2)] [] true none, by
    refine ⟨?_, ?_, ?_, ?_, ?_⟩ <;> first | decide +kernel | exact reaches_net _ rfl (by decide +kernel) _⟩,
   ⟨some 2, genFrame 0x0C 0 4, coordState (record [(7, 1), (8, 2)] [] false none), record [(7, 1), (8, 2)] [] false none, by decide +kernel⟩,
   ⟨some 2, genFrame 0x0C 0 4, coordState (record [(7, 1), (8, 2)] [] false (some true)), record [(7, 1), (8, 2)] [] false (some true), by decide +kernel⟩,
   ⟨9, coordState (record [(8, 2)] [] true none), record [(8, 2)] [] true none, by decide +kernel⟩,
   ⟨9, coordState (record [(7, 1), (8, 2)] [(8, 2)] false none), record [(7, 1), (8, 2)] [(8, 2)] false none, by decide +kernel⟩,
   ⟨9, coordState (record [(7, 1), (8, 2)] [] false (some true)), record [(7, 1), (8, 2)] [] false (some true), by decide +kernel⟩,
   ⟨some 2, genFrame 0x0D 0 4, coordState (record [(7, 1), (8, 2)] [] false (some true)), record [(7, 1), (8, 2)] [] false (some true), true, by
    refine ⟨?_, ?_, ?_, ?_, ?_, ?_⟩ <;> first | decide +kernel | exact reaches_net _ rfl (by decide +kernel) _⟩⟩

theorem witness_MembersJoin :
    (∃ (c : Fin 64) (s : State) (i : Cur),
      s.readyHead c opGen .ready = some i
      ∧ (s.ctx c).gen.isOpen = false
      ∧ bitAt i.word.toNat 119 = true
      ∧ s.Reaches (s.coordOf c))
    ∧ (∃ (c : Fin 64) (s : State) (i : Cur),
      s.waitHead c opGen = some i
      ∧ (s.ctx c).gen.member = .joining
      ∧ s.Reaches (s.coordOf c) ∧ (s.ctx c).gen.abortBit = false)
    ∧ (∃ (p : Ingress) (f : Frame) (s : State) (c : Nat) (i : Cur),
      s.Arrives p 0x09 f
      ∧ s.memberOf (gidOf f) (fun g => g.givenUp f.hdr.fgen && (decide (g.member = .joining) || decide (g.member = .idle))) = none ∧ s.memberOf (gidOf f) (fun g => decide (g.member = .joining)) = some c ∧ s.waitHead c opGen = some i ∧ s.NothingDue c ∧ s.fab.heldWrites = [])
    ∧ (∃ (p : Ingress) (f : Frame) (s : State) (c : Nat) (i : Cur),
      s.Arrives p 0x09 f
      ∧ s.memberOf (gidOf f) (fun g => g.givenUp f.hdr.fgen && (decide (g.member = .joining) || decide (g.member = .idle))) = some c ∧ (s.ctx c).gen.member = .joining ∧ s.waitHead c opGen = some i ∧ s.NothingDue c ∧ s.fab.heldWrites = [])
    ∧ (∃ (p : Ingress) (f : Frame) (s : State) (c : Nat),
      s.Arrives p 0x09 f
      ∧ s.memberOf (gidOf f) (fun g => g.givenUp f.hdr.fgen && (decide (g.member = .joining) || decide (g.member = .idle))) = some c ∧ (s.ctx c).gen.member ≠ .joining) :=
  ⟨⟨1, memberAt genCur id, genCur, by
    refine ⟨?_, ?_, ?_, ?_⟩ <;> first | decide +kernel | exact reaches_net _ rfl (by decide +kernel) _⟩,
   ⟨1, memberAt (inPhase genCur .waiting) (fun g => { g with member := .joining }), inPhase genCur .waiting, by
    refine ⟨?_, ?_, ?_, ?_⟩ <;> first | decide +kernel | exact reaches_net _ rfl (by decide +kernel) _⟩,
   ⟨some 2, genFrame 0x09 3 4, memberAt (inPhase genCur .waiting) (fun g => { g with member := .joining }), 1, inPhase genCur .waiting, by decide +kernel⟩,
   ⟨some 2, genFrame 0x09 3 4, memberAt (inPhase genCur .waiting) (fun g => { g with member := .joining, stale := true }), 1, inPhase genCur .waiting, by decide +kernel⟩,
   ⟨some 2, genFrame 0x09 3 4, memberAt (cur (wordOf opNop 0)) (fun g => { g with stale := true }), 1, by decide +kernel⟩⟩

theorem witness_MembersDecide :
    (∃ (c : Fin 64) (s : State) (i : Cur),
      s.readyHead c opCommit .ready = some i
      ∧ (s.ctx c).gen.isOpen = true
      ∧ (s.ctx c).gen.fab = true
      ∧ (s.ctx c).gen.member = .open_
      ∧ s.writesDone c = true
      ∧ s.Reaches (s.coordOf c))
    ∧ (∃ (p : Ingress) (f : Frame) (s : State) (c : Nat) (i : Cur),
      s.Arrives p 0x0B f
      ∧ f.hdr.status = 0
      ∧ s.memberOf (gidOf f) (fun g => (decide (g.member = .open_) || decide (g.member = .voted)) && decide (g.fgen = f.hdr.fgen)
        && decide (g.member = .voted)) = some c
      ∧ s.waitHead c opCommit = some i
      ∧ (s.ctx c).gen.writeSet ≠ [])
    ∧ (∃ (p : Ingress) (f : Frame) (s : State) (c : Nat) (i : Cur),
      s.Arrives p 0x0B f
      ∧ f.hdr.status = 0
      ∧ s.memberOf (gidOf f) (fun g => (decide (g.member = .open_) || decide (g.member = .voted)) && decide (g.fgen = f.hdr.fgen)
        && decide (g.member = .voted)) = some c
      ∧ s.waitHead c opCommit = some i
      ∧ (s.ctx c).gen.writeSet = [] ∧ s.NothingDue c)
    ∧ (∃ (c : Fin 64) (s : State),
      (s.ctx c).gen.member = .voted
      ∧ (s.ctx c).gen.asked ≠ []
      ∧ (s.ctx c).gen.abortBit = false
      ∧ s.fab.heldWrites = [])
    ∧ (∃ (p : Ingress) (f : Frame) (s : State) (c : Nat),
      s.Arrives p 0x0B f
      ∧ f.hdr.status ≠ 0
      ∧ s.memberOf (gidOf f) (fun g => (decide (g.member = .open_) || decide (g.member = .voted)) && decide (g.fgen = f.hdr.fgen)) = some c
      ∧ ((s.ctx c).gen.asked.contains f.hdr.src = false ∨ f.hdr.src = s.coordOf c)
      ∧ (s.ctx c).gen.abortBit = false
      ∧ s.fab.heldWrites = []) :=
  ⟨⟨1, memberAt commitCur (fun g => { g with isOpen := true, fab := true, fgen := 4, member := .open_ }), commitCur, by
    refine ⟨?_, ?_, ?_, ?_, ?_, ?_⟩ <;> first | decide +kernel | exact reaches_net _ rfl (by decide +kernel) _⟩,
   ⟨some 2, genFrame 0x0B 0 4, memberAt (inPhase commitCur .waiting) (fun g => { g with isOpen := true, fab := true, fgen := 4, member := .voted, writeSet := [0] }), 1, inPhase commitCur .waiting, by decide +kernel⟩,
   ⟨some 2, genFrame 0x0B 0 4, memberAt (inPhase commitCur .waiting) (fun g => { g with isOpen := true, fab := true, fgen := 4, member := .voted, writeSet := [] }), 1, inPhase commitCur .waiting, by decide +kernel⟩,
   ⟨1, memberAt (inPhase commitCur .waiting) (fun g => { g with isOpen := true, fab := true, fgen := 4, member := .voted, writeSet := [0], asked := [7] }), by decide +kernel⟩,
   ⟨some 2, { genFrame 0x0B 0 4 with hdr := { (genFrame 0x0B 0 4).hdr with status := 0x16 } }, memberAt (inPhase commitCur .waiting) (fun g => { g with isOpen := true, fab := true, fgen := 4, member := .voted, writeSet := [0] }), 1, by decide +kernel⟩⟩

theorem witness_LedgerUpdateBegins :
    (∃ (v : Word) (s : State),
      s.serving = true
      ∧ s.fab.ledgerGo = false
      ∧ bitAt v.toNat 0 = true
      ∧ s.fab.ledgerQ = []
      ∧ s.fabGenOpen = true)
    ∧ (∃ (v : Word) (s : State),
      s.serving = true
      ∧ s.fab.ledgerGo = false
      ∧ bitAt v.toNat 0 = true
      ∧ s.fab.ledgerQ = []
      ∧ s.fabGenOpen = false ∧ s.walkerFree s.ledgerA = true ∧ s.ledgerOff = false)
    ∧ (∃ (v : Word) (s : State),
      s.serving = true
      ∧ s.fab.ledgerGo = false
      ∧ bitAt v.toNat 0 = true
      ∧ s.fab.ledgerQ = []
      ∧ s.fabGenOpen = false ∧ s.walkerFree s.ledgerA = true ∧ s.ledgerOff = true)
    ∧ (∃ (s : State) (r : LedgerReq) (rest : List LedgerReq),
      s.fab.ledgerQ = r :: rest
      ∧ s.fabGenOpen = true)
    ∧ (∃ (s : State) (r : LedgerReq) (rest : List LedgerReq),
      s.fab.ledgerQ = r :: rest
      ∧ s.fabGenOpen = false ∧ s.walkerFree s.ledgerA = true ∧ s.ledgerOff = false)
    ∧ (∃ (p : Ingress) (f : Frame) (s : State),
      s.Arrives p 0x10 f
      ∧ f.hdr.src ≠ s.fab.rootAddr)
    ∧ (∃ (p : Ingress) (f : Frame) (s : State),
      s.Arrives p 0x10 f
      ∧ f.hdr.src = s.fab.rootAddr ∧ s.fab.ledgerQ = [] ∧ s.fabGenOpen = false ∧ s.walkerFree s.ledgerA = true ∧ s.ledgerOff = false) :=
  ⟨⟨1, inGen (ledgerState id), by decide +kernel⟩,
   ⟨1, ledgerState id, by decide +kernel⟩,
   ⟨1, up, by decide +kernel⟩,
   ⟨inGen (ledgerState (fun y => { y with ledgerQ := [lreq] })), lreq, [], by decide +kernel⟩,
   ⟨ledgerState (fun y => { y with ledgerQ := [lreq] }), lreq, [], by decide +kernel⟩,
   ⟨some 2, frame (hdr 0x10 6) (natLe 8 7), ledgerState id, by decide +kernel⟩,
   ⟨some 2, frame (hdr 0x10 7) (natLe 8 7), ledgerState id, by decide +kernel⟩⟩

theorem witness_LedgerUpdateCloses :
    (∃ (m : Fin 30) (s : State) (k : Nat) (lines : List Nat) (who : Option (Nat × BitVec 32)) (req : Option Arrival),
      s.lockOf m = some ⟨m, k, .rewrite lines who req⟩
      ∧ s.outstanding (.combine m) = false
      ∧ s.fab.heldWrites = []
      ∧ s.fab.resolving = []
      ∧ (s.ledgerWin 0).isSome = true)
    ∧ (∃ (m : Fin 30) (s : State) (k : Nat) (r : LedgerReq),
      s.lockOf m = some ⟨m, k, .ledger r⟩
      ∧ s.outstanding (.combine m) = false
      ∧ s.fab.heldWrites = []
      ∧ s.fab.resolving = []
      ∧ s.ledgerOff = false
      ∧ r.fromCmd = true ∧ s.fab.ledgerQ = [])
    ∧ (∃ (m : Fin 30) (s : State) (k : Nat) (r : LedgerReq),
      s.lockOf m = some ⟨m, k, .ledger r⟩
      ∧ s.outstanding (.combine m) = false
      ∧ s.fab.heldWrites = []
      ∧ s.fab.resolving = []
      ∧ s.ledgerOff = false
      ∧ r.fromCmd = true ∧ s.fab.ledgerQ = [] ∧ s.ledgerWin r.entry = none) :=
  ⟨⟨28, { (withLedger (net up) 1) with stks := [(0, (ledgerMem 1).write 0 (natLe 8 (2 ^ 63 + 2 ^ 55 + 2 ^ 35 + 2 ^ 29))), (1, ledgerMem 1)], xb := { up.xb with locks := [⟨28, 1, .rewrite [0] none none⟩] } }, 1, [0], none, none, by decide +kernel⟩,
   ⟨28, { ledgerState id with xb := { up.xb with locks := [⟨28, 0, .ledger lreq⟩] } }, 0, lreq, by decide +kernel⟩,
   ⟨28, { ledgerState id with stks := [(0, ledgerMem 1), (1, (ledgerMem 1).write 0 [1])], xb := { up.xb with locks := [⟨28, 0, .ledger lreq⟩] } }, 0, lreq, by decide +kernel⟩⟩

theorem witness_LockCutOff :
    (∃ (m : Fin 30) (s : State) (l : Lock),
      s.lockOf m = some l
      ∧ s.fab.heldWrites = []
      ∧ (s.fab.resolving = [] ∨ ∃ lines who a, l.job = .rewrite lines who (some a) ∧ s.fab.resolving = [a])
      ∧ (∀ lines c n req, l.job = .rewrite lines (some (c, n)) req → (s.ctx c).gen.abortBit = false))
    ∧ (∃ (m : Fin 30) (s : State) (l : Lock),
      s.lockOf m = some l
      ∧ s.fab.heldWrites = []
      ∧ (s.fab.resolving = [] ∨ ∃ lines who a, l.job = .rewrite lines who (some a) ∧ s.fab.resolving = [a])
      ∧ (∀ lines c n req, l.job = .rewrite lines (some (c, n)) req → (s.ctx c).gen.abortBit = false)
      ∧ l.job = .rewrite [0] (some (1, rgetCur.n)) none ∧ s.head 1 = some rgetCur ∧ s.active 1 = true ∧ rgetCur.isFabric = true ∧ rgetCur.phase = .ready)
    ∧ (∃ (m : Fin 30) (s : State) (l : Lock),
      s.lockOf m = some l
      ∧ s.fab.heldWrites = []
      ∧ (s.fab.resolving = [] ∨ ∃ lines who a, l.job = .rewrite lines who (some a) ∧ s.fab.resolving = [a])
      ∧ (∀ lines c n req, l.job = .rewrite lines (some (c, n)) req → (s.ctx c).gen.abortBit = false)
      ∧ (l.job = .rewrite [0] none (some ⟨some 2, frame { hdr 0x01 7 with w2 := packW2 0 0 4 } [], 0⟩)) ∧ s.fab.resolving = [⟨some 2, frame { hdr 0x01 7 with w2 := packW2 0 0 4 } [], 0⟩]) :=
  ⟨⟨28, { ledgerState id with xb := { up.xb with locks := [⟨28, 0, .ledger lreq⟩] } }, ⟨28, 0, .ledger lreq⟩, rfl, rfl, Or.inl rfl, fun _ _ _ _ h => (by cases h)⟩,
   ⟨28, { fabAt rgetCur 5 with xb := { up.xb with locks := [⟨28, 1, .rewrite [0] (some (1, 0)) none⟩] } }, ⟨28, 1, .rewrite [0] (some (1, 0)) none⟩, rfl, rfl, Or.inl rfl, no_abort, by decide +kernel⟩,
   ⟨28, { resolving (owner ctxUp) (frame { hdr 0x01 7 with w2 := packW2 0 0 4 } []) with xb := { up.xb with locks := [⟨28, 1, .rewrite [0] none (some ⟨some 2, frame { hdr 0x01 7 with w2 := packW2 0 0 4 } [], 0⟩)⟩] } }, ⟨28, 1, .rewrite [0] none (some ⟨some 2, frame { hdr 0x01 7 with w2 := packW2 0 0 4 } [], 0⟩)⟩, rfl, rfl, Or.inr ⟨[0], none, _, rfl, rfl⟩, fun _ _ _ _ h => (by cases h), rfl, rfl⟩⟩

theorem witness_ManagementFrames :
    (∃ (p : Ingress) (f : Frame) (s : State) (u : State),
      s.Arrives p 0x18 f
      ∧ s.take p f = some u
      ∧ s.mgmtOk f = true
      ∧ mgmtPage (leNat (f.payload.take 8)) = true
      ∧ leNat (f.payload.take 8) % 8 = 0
      ∧ s.Reaches f.hdr.src)
    ∧ (∃ (p : Ingress) (f : Frame) (s : State),
      s.Arrives p 0x19 f
      ∧ s.mgmtOk f = false)
    ∧ (∃ (p : Ingress) (f : Frame) (s : State),
      s.Arrives p 0x19 f
      ∧ s.mgmtOk f = true ∧ leNat (f.payload.take 8) = 0x400010)
    ∧ (∃ (f : Frame) (s : State),
      s.fab.root = true
      ∧ f ∉ s.fab.loop
      ∧ f.hdr.op = 0x10 ∧ s.Reaches f.hdr.dst)
    ∧ (∃ (f : Frame) (s : State),
      s.fab.root = true
      ∧ f ∉ s.fab.loop
      ∧ f.hdr.op = 0x18 ∧ f.hdr.routePort 0 < s.nPorts ∧ (s.port (f.hdr.routePort 0)).isUp = true)
    ∧ (∃ (s : State),
      s.serving = true)
    ∧ (∃ (p : Ingress) (f : Frame) (s : State),
      s.Arrives p 0x1A f)
    ∧ (∃ (p : Ingress) (f : Frame) (s : State) (op : Nat),
      s.Arrives p op f
      ∧ opKnown op = false) :=
  ⟨⟨some 2, mgmtFrame 0x18 7 0x400008 0, net up, ((net up).take (some 2) (mgmtFrame 0x18 7 0x400008 0)).getD up, by
    refine ⟨?_, ?_, ?_, ?_, ?_, ?_⟩ <;> first | decide +kernel | exact reaches_net _ rfl (by decide +kernel) _⟩,
   ⟨some 2, mgmtFrame 0x19 6 0x400010 0, net up, by decide +kernel⟩,
   ⟨some 2, mgmtFrame 0x19 7 0x400010 (3 * 2 ^ 40), net up, by decide +kernel⟩,
   ⟨frame (hdr 0x10 7) (natLe 8 7), fabWith (net up) (fun y => { y with root := true }), by
    refine ⟨?_, ?_, ?_, ?_⟩ <;> first | decide +kernel | exact reaches_net _ rfl (by decide +kernel) _⟩,
   ⟨frame { hdr 0x18 7 with w2 := 2 } [], fabWith (net up) (fun y => { y with root := true }), by decide +kernel⟩,
   ⟨up, by decide +kernel⟩,
   ⟨some 2, frame (hdr 0x1A 7) [], net up, by decide +kernel⟩,
   ⟨some 2, frame (hdr 0x3F 7) [], net up, 0x3F, by decide +kernel⟩⟩

theorem witness_LaneCodewords :
    (∃ (x : LaneFec) (b : Nat),
      (x.waiting.length = 19 ∧ (∀ y ∈ x.waiting ++ [b], y < 2 ^ 257)))
    ∧ (∃ (x : LaneFec),
      x.waiting.length < 19) :=
  ⟨⟨⟨List.replicate 19 (2 ^ 257 - 1), []⟩, 5, by decide +kernel⟩,
   ⟨⟨[3], []⟩, by decide +kernel⟩⟩

end Sys2Proof.Tests
end

section
/-!
The ring registers (R186, R187) and the semaphores (R194, R195, R198) from the control port: what an access that the port serves, a
change of the run state, a doorbell, a write of HEAD and one write of a semaphore counter change and leave; then the statements.
-/
namespace Sys2Proof.Machine

variable (s : State)

/-! ## An access that is served -/

theorem State.served_of_serving (f : State → State) (h : s.serving = true) : s.served f = f s := by
  simp [State.served, h]

theorem exec_doorbell (c : Fin 64) (v : Word) : exec (.doorbell c v) s = .next (s.served (·.doorbell c v)) := rfl

theorem exec_rcpHeadWrite (c : Fin 64) (v : Word) : exec (.rcpHeadWrite c v) s = .next (s.served (·.headWrite c v)) := rfl

theorem exec_semWrite (c : Fin 64) (p : Fin 1024) (v : Word) : exec (.semWrite c p v) s = .next (s.served (·.semWrite c p v)) := rfl

theorem exec_semSignal (c : Fin 64) (v : Word) : exec (.semSignal c v) s = .next (s.served (·.semSignal c v)) := rfl

/-! ## The run state of one context -/

theorem State.updRun_run (c d : Nat) (f : CtxRun → CtxRun) :
    ((s.updRun c f).ctx d).run = if d = c then f (s.ctx d).run else (s.ctx d).run := by
  rw [State.updRun_eq, State.setCtx_ctx]
  split
  next h => rw [h]
  next => rfl

/-- The size of a ring is configuration. -/
theorem State.updRun_rlen (c d : Nat) (f : CtxRun → CtxRun) : (s.updRun c f).rlen d = s.rlen d := by
  simp only [State.rlen, State.updRun_eq, State.setCtx_ctx]
  split
  next h => rw [h]
  next => rfl

theorem State.setReject_doorbell (c : Nat) : s.setReject c true = s.updRun c (fun r => { r with dbReject := true }) := rfl

theorem State.setReject_sem (c : Nat) : s.setReject c false = s.updRun c (fun r => { r with semReject := true }) := rfl

/-! ## The doorbell (R186, R335) -/

/-- Leaving PARK touches the power state alone. -/
theorem State.leavePark_eq : s.leavePark =
    { s with clk := { s.clk with pwState := if s.clk.pwState = 2 ∧ s.anyRunning = true then 4 else s.clk.pwState } } := by
  unfold State.leavePark
  split <;> rfl

@[simp] theorem State.leavePark_ctx (d : Nat) : s.leavePark.ctx d = s.ctx d := by
  rw [State.leavePark_eq]; rfl

@[simp] theorem State.leavePark_rlen (d : Nat) : s.leavePark.rlen d = s.rlen d := by
  simp only [State.rlen, State.leavePark_ctx]

/-- The two tests of a doorbell: the new tail does not lap the head, and does not move back. -/
def State.doorbellFits (c : Nat) (t : BitVec 32) : Prop :=
  (t - (s.ctx c).run.head).toNat ≤ s.rlen c
    ∧ ((s.ctx c).run.tail - (s.ctx c).run.head).toNat ≤ (t - (s.ctx c).run.head).toNat

/-- The run state under a new tail. -/
def CtxRun.withTail (t : BitVec 32) (r : CtxRun) : CtxRun :=
  { r with tail := t, st := if r.st = .idle ∧ t ≠ r.head then .running else r.st }

theorem State.doorbell_of_fits (c : Nat) (v : Word) (h : s.doorbellFits c (v.setWidth 32)) :
    s.doorbell c v = (s.updRun c (CtxRun.withTail (v.setWidth 32))).leavePark := if_pos h

theorem State.doorbell_of_not_fits (c : Nat) (v : Word) (h : ¬ s.doorbellFits c (v.setWidth 32)) :
    s.doorbell c v = s.updRun c (fun r => { r with dbReject := true }) :=
  (if_neg h).trans (s.setReject_doorbell c)

/-- What a doorbell can do to the ring of any context: nothing, or to its own a new tail that passes both tests. -/
theorem State.doorbell_ring (c d : Nat) (v : Word) :
    (s.doorbell c v).rlen d = s.rlen d ∧ ((s.doorbell c v).ctx d).run.head = (s.ctx d).run.head
      ∧ (((s.doorbell c v).ctx d).run.tail = (s.ctx d).run.tail
        ∨ (s.doorbellFits d (v.setWidth 32) ∧ ((s.doorbell c v).ctx d).run.tail = v.setWidth 32)) := by
  by_cases fits : s.doorbellFits c (v.setWidth 32)
  · rw [s.doorbell_of_fits c v fits, State.leavePark_rlen, State.leavePark_ctx, State.updRun_run]
    refine ⟨s.updRun_rlen c d _, ?_⟩
    by_cases hd : d = c
    · subst hd
      simp [CtxRun.withTail, fits]
    · simp [hd]
  · rw [s.doorbell_of_not_fits c v fits, State.updRun_run]
    refine ⟨s.updRun_rlen c d _, ?_⟩
    by_cases hd : d = c <;> simp [hd]

/-! ## The write of HEAD (R187, R255) -/

/-- A context whose restart point has moved: no position, no copies, and the replay point follows. -/
def Ctx.restartAt (h : BitVec 32) (x : Ctx) : Ctx :=
  { x with
    run := { x.run with head := h, resumable := false }
    cur := [], fetched := []
    gen := { x.gen with replayHead := h, noReplay := false } }

theorem State.headWrite_of_fits (c : Nat) (v : Word) (hst : (s.ctx c).run.st = .stopped)
    (hfit : ((s.ctx c).run.tail - v.setWidth 32).toNat ≤ s.rlen c) :
    s.headWrite c v = s.setCtx c ((s.ctx c).restartAt (v.setWidth 32)) := by
  have h : s.headWrite c v = (s.updCtx c (fun x => { x with
      run := { x.run with head := v.setWidth 32, resumable := false }, cur := [], fetched := [] })).setReplayHead c (v.setWidth 32) :=
    if_pos ⟨hst, hfit⟩
  rw [h]
  simp [State.setReplayHead, Ctx.restartAt]

theorem State.headWrite_of_not_fits (c : Nat) (v : Word)
    (h : ¬ ((s.ctx c).run.st = .stopped ∧ ((s.ctx c).run.tail - v.setWidth 32).toNat ≤ s.rlen c)) :
    s.headWrite c v = s.updRun c (fun r => { r with dbReject := true }) :=
  (if_neg h).trans (s.setReject_doorbell c)

/-! ## One write of a semaphore counter -/

theorem State.semSet_stks (o p : Nat) (half : Bool) (v : BitVec 32) : (s.semSet o p half v).stks = s.stks := rfl

theorem State.semSet_run (o p : Nat) (half : Bool) (v : BitVec 32) (d : Nat) :
    ((s.semSet o p half v).ctx d).run = (s.ctx d).run := by
  simp only [State.semSet, State.updCtx_eq, State.setCtx_ctx]
  split
  next h => subst h; cases half <;> rfl
  next => rfl

/-- A counter reads as it was set, and every other counter as before. -/
theorem State.semGet_semSet (o p : Nat) (half : Bool) (v : BitVec 32) (a q : Nat) (h : Bool) :
    (s.semSet o p half v).semGet a q h = if (a, q, h) = (o, p, half) then v else s.semGet a q h := by
  simp only [State.semGet, State.semSet, State.updCtx_eq, State.setCtx_ctx]
  by_cases ha : a = o
  · subst ha
    cases half <;> cases h <;> simp [tabGet_tabSet]
  · simp [ha]

theorem State.semGet_semSet_self (o p : Nat) (half : Bool) (v : BitVec 32) : (s.semSet o p half v).semGet o p half = v := by
  simp [State.semGet_semSet]

theorem State.semGet_semSet_ne (o p : Nat) (half : Bool) (v : BitVec 32) {a q : Nat} {h : Bool} (hne : (a, q, h) ≠ (o, p, half)) :
    (s.semSet o p half v).semGet a q h = s.semGet a q h := by
  rw [State.semGet_semSet, if_neg hne]

theorem State.semAdd_of_fits (o p : Nat) (half : Bool) (n : Nat) (h : (s.semGet o p half).toNat + n < 2 ^ 32) :
    s.semAdd o p half n = some (s.semSet o p half (BitVec.ofNat 32 ((s.semGet o p half).toNat + n))) := if_pos h

theorem State.semAdd_of_passes (o p : Nat) (half : Bool) (n : Nat) (h : 2 ^ 32 ≤ (s.semGet o p half).toNat + n) :
    s.semAdd o p half n = none := if_neg (Nat.not_lt.mpr h)

/-! ## Host access to semaphores (R194, R195) -/

theorem State.semWrite_of_unbound (c p : Nat) (v : Word) (hst : (s.ctx c).run.st = .stopped) (hb : s.bindOf c p = none) :
    s.semWrite c p v = (s.semSet c p false (v.setWidth 32)).semSet c p true ((v >>> 32).setWidth 32) :=
  if_pos ⟨hst, by rw [hb]; rfl⟩

theorem State.semSignal_of_fits (c : Nat) (v : Word) {o p : Nat} (hp : s.semPair c (field v.toNat 26 17) = some (o, p))
    (h : (s.semGet o p (bitAt v.toNat 16)).toNat + field v.toNat 15 0 < 2 ^ 32) :
    s.semSignal c v = s.semSet o p (bitAt v.toNat 16)
      (BitVec.ofNat 32 ((s.semGet o p (bitAt v.toNat 16)).toNat + field v.toNat 15 0)) := by
  simp only [State.semSignal, hp, s.semAdd_of_fits _ _ _ _ h]

theorem State.semSignal_of_no_pair (c : Nat) (v : Word) (hp : s.semPair c (field v.toNat 26 17) = none) :
    s.semSignal c v = s.updRun c (fun r => { r with semReject := true }) := by
  simp only [State.semSignal, hp, State.setReject_sem]

theorem State.semSignal_of_passes (c : Nat) (v : Word) {o p : Nat} (hp : s.semPair c (field v.toNat 26 17) = some (o, p))
    (h : 2 ^ 32 ≤ (s.semGet o p (bitAt v.toNat 16)).toNat + field v.toNat 15 0) :
    s.semSignal c v = s.updRun c (fun r => { r with semReject := true }) := by
  simp only [State.semSignal, hp, s.semAdd_of_passes _ _ _ _ h, State.setReject_sem]

/-! ## The bindings of semaphore names (R198)

The search of the sixteen binding registers finds the lowest one that holds the name. -/

/-- A search through 0, 1, …, n - 1 answers with what it finds at the first place that answers. -/
theorem findSome?_range_first {α : Type} (f : Nat → Option α) {n i : Nat} {v : α} (hi : i < n) (hv : f i = some v)
    (hfirst : ∀ j, j < i → f j = none) : (List.range n).findSome? f = some v := by
  induction n with
  | zero => exact absurd hi (Nat.not_lt_zero i)
  | succ n ih =>
    rw [List.range_succ, List.findSome?_append]
    rcases Nat.lt_succ_iff_lt_or_eq.mp hi with hlt | rfl
    · rw [ih hlt, Option.some_or]
    · have hnone : (List.range i).findSome? f = none := by
        simpa only [List.findSome?_eq_none_iff, List.mem_range] using hfirst
      simp [hnone, hv]

/-- Binding register b of a context, as a number. -/
def State.bindReg (c b : Nat) : Nat := (tabGet (0 : Word) (s.ctx c).cfg.binds b).toNat

/-- Binding b of context c is VALID and holds the name q. -/
def State.Binds (c b q : Nat) : Prop := bitAt (s.bindReg c b) 63 = true ∧ field (s.bindReg c b) 9 0 = q

/-- What one binding register answers for a name: the peer's context and pair. -/
def State.bindAt (c p b : Nat) : Option (Nat × Nat) :=
  if bitAt (s.bindReg c b) 63 && decide (field (s.bindReg c b) 9 0 = p) then
    some (field (s.bindReg c b) 37 32, field (s.bindReg c b) 47 38)
  else none

theorem State.bindOf_eq (c p : Nat) : s.bindOf c p = (List.range 16).findSome? (s.bindAt c p) := rfl

theorem State.bindAt_of_binds {c b p : Nat} (h : s.Binds c b p) :
    s.bindAt c p b = some (field (s.bindReg c b) 37 32, field (s.bindReg c b) 47 38) := by
  obtain ⟨hvalid, hname⟩ := h
  simp [State.bindAt, hvalid, hname]

theorem State.bindAt_eq_none_iff (c b p : Nat) : s.bindAt c p b = none ↔ ¬ s.Binds c b p := by
  simp [State.bindAt, State.Binds]

theorem State.bindOf_eq_none_iff (c p : Nat) : s.bindOf c p = none ↔ ∀ b, b < 16 → ¬ s.Binds c b p := by
  simp only [State.bindOf_eq, List.findSome?_eq_none_iff, List.mem_range, State.bindAt_eq_none_iff]

theorem State.bindOf_isSome_iff (c p : Nat) : (s.bindOf c p).isSome = true ↔ ∃ b, b < 16 ∧ s.Binds c b p := by
  rw [Option.isSome_iff_ne_none, ne_eq, State.bindOf_eq_none_iff]
  simp only [Classical.not_forall, Classical.not_not, exists_prop]

/-- The lowest binding that holds a name is the one that counts. -/
theorem State.bindOf_of_lowest {c b p : Nat} (hb : b < 16) (h : s.Binds c b p) (hlow : ∀ a, a < b → ¬ s.Binds c a p) :
    s.bindOf c p = some (field (s.bindReg c b) 37 32, field (s.bindReg c b) 47 38) :=
  findSome?_range_first _ hb (s.bindAt_of_binds h) (fun a ha => (s.bindAt_eq_none_iff c a p).mpr (hlow a ha))

/-! ## The pair a name acts on (R198) -/

theorem State.semPair_of_unbound {c p : Nat} (h : s.bindOf c p = none) : s.semPair c p = some (c, p) := by
  simp only [State.semPair, h]

theorem State.semPair_of_bound {c p pc pp : Nat} (h : s.bindOf c p = some (pc, pp)) :
    s.semPair c p = if pc = c ∨ (s.bindOf pc pp).isSome = true then none else some (pc, pp) := by
  simp only [State.semPair, h]

/-! ## The statements on the ring registers (R186, R187) -/

theorem doorbellAccepted : Claim.DoorbellAccepted := by
  intro c v s hserving hlap hback u
  rw [exec_doorbell, s.served_of_serving _ hserving, s.doorbell_of_fits c v ⟨hlap, hback⟩, State.leavePark_eq]
  rfl

theorem doorbellRejected : Claim.DoorbellRejected := by
  intro c v s hserving hfails
  have hfit : ¬ s.doorbellFits c (v.setWidth 32) := by
    rintro ⟨hlap, hback⟩
    omega
  rw [exec_doorbell, s.served_of_serving _ hserving, s.doorbell_of_not_fits c v hfit]

theorem doorbellNeverLaps : Claim.DoorbellNeverLaps := by
  intro c d v s t hexec hring
  obtain rfl := Host.Outcome.next.inj ((exec_doorbell s c v).symm.trans hexec)
  rcases s.served_spec (·.doorbell c v) with ⟨-, hrun⟩ | ⟨-, hkeep⟩
  · obtain ⟨hlen, hhead, htail | ⟨⟨hlap, hback⟩, htail⟩⟩ := s.doorbell_ring c d v
    · rw [hrun, hlen, hhead, htail]
      exact ⟨rfl, hring, Nat.le_refl _⟩
    · rw [hrun, hlen, hhead, htail]
      exact ⟨rfl, hlap, hback⟩
  · rw [hkeep]
    exact ⟨rfl, hring, Nat.le_refl _⟩

theorem headWriteAccepted : Claim.HeadWriteAccepted := by
  intro c v s hserving hst hfit
  refine ⟨s.setCtx c ((s.ctx c).restartAt (v.setWidth 32)), ?_, ?_, ?_⟩
  · rw [exec_rcpHeadWrite, s.served_of_serving _ hserving, s.headWrite_of_fits c v hst hfit]
  · rw [State.setCtx_ctx_self]
    rfl
  · rw [State.setCtx_ctx_self]

theorem headWriteRejected : Claim.HeadWriteRejected := by
  intro c v s hserving hfails
  have hfit : ¬ ((s.ctx c).run.st = .stopped ∧ ((s.ctx c).run.tail - v.setWidth 32).toNat ≤ s.rlen c) := by
    rintro ⟨hst, hfit⟩
    rcases hfails with hrun | hlap
    · exact hrun hst
    · omega
  rw [exec_rcpHeadWrite, s.served_of_serving _ hserving, s.headWrite_of_not_fits c v hfit]

/-- Settles O4, from what an accepted and a rejected doorbell or write of HEAD make of the state. -/
theorem ringRegisters : Obligations.RingRegisters :=
  ⟨doorbellAccepted, doorbellRejected, doorbellNeverLaps, headWriteAccepted, headWriteRejected⟩

/-! ## The statements on semaphores from the control port (R194, R195, R198) -/

theorem semWriteSetsPair : Claim.SemWriteSetsPair := by
  intro c p v s hserving hst hunbound
  refine ⟨(s.semSet c p false (v.setWidth 32)).semSet c p true ((v >>> 32).setWidth 32), ?_, ?_, ?_, ?_, ?_, ?_⟩
  · rw [exec_semWrite, s.served_of_serving _ hserving, s.semWrite_of_unbound c p v hst hunbound]
  · rw [State.semGet_semSet_ne _ _ _ _ _ (by simp), State.semGet_semSet_self]
  · rw [State.semGet_semSet_self]
  · intro o q h hother
    have hne : ∀ half, (o, q, h) ≠ (c.val, p.val, half) := by
      intro half heq
      simp only [Prod.mk.injEq] at heq
      exact hother (by rw [heq.1, heq.2.1])
    rw [State.semGet_semSet_ne _ _ _ _ _ (hne true), State.semGet_semSet_ne _ _ _ _ _ (hne false)]
  · rw [State.semSet_run, State.semSet_run]
  · rw [State.semSet_stks, State.semSet_stks]

theorem semPairResolves : Claim.SemPairResolves := by
  intro c p s r binds
  refine ⟨fun hfree => s.semPair_of_unbound ((s.bindOf_eq_none_iff c p).mpr hfree), ?_⟩
  intro b hb hbinds hlow w
  have hpair := s.semPair_of_bound (s.bindOf_of_lowest hb hbinds hlow)
  constructor
  · intro hforbid
    refine hpair.trans (if_pos (hforbid.imp_right ?_))
    exact (s.bindOf_isSome_iff _ _).mpr
  · intro hpeer hpeerFree
    refine hpair.trans (if_neg ?_)
    rintro (hself | hbound)
    · exact hpeer hself
    · obtain ⟨a, ha, habinds⟩ := (s.bindOf_isSome_iff _ _).mp hbound
      exact hpeerFree a ha habinds

theorem semSignalAdds : Claim.SemSignalAdds := by
  intro c v s o p hserving hpair hfits
  refine ⟨s.semSet o p (bitAt v.toNat 16) (BitVec.ofNat 32 ((s.semGet o p (bitAt v.toNat 16)).toNat + field v.toNat 15 0)),
    ?_, ?_, ?_, ?_, ?_⟩
  · rw [exec_semSignal, s.served_of_serving _ hserving, s.semSignal_of_fits c v hpair hfits]
  · rw [State.semGet_semSet_self, BitVec.toNat_ofNat, Nat.mod_eq_of_lt hfits]
  · exact fun a q h hne => s.semGet_semSet_ne _ _ _ _ hne
  · exact s.semSet_run _ _ _ _
  · exact s.semSet_stks _ _ _ _

theorem semSignalRejected : Claim.SemSignalRejected := by
  intro c v s hserving hfails
  rw [exec_semSignal, s.served_of_serving _ hserving]
  cases hpair : s.semPair c (field v.toNat 26 17) with
  | none => rw [s.semSignal_of_no_pair c v hpair]
  | some e =>
    have hpasses : 2 ^ 32 ≤ (s.semGet e.1 e.2 (bitAt v.toNat 16)).toNat + field v.toNat 15 0 := by
      simpa only [hpair, Option.all_some, decide_eq_true_eq] using hfails
    rw [s.semSignal_of_passes c v hpair hpasses]

/-- Settles O6, from the write of one counter and the search for the lowest binding. -/
theorem semaphorePort : Obligations.SemaphorePort :=
  ⟨semWriteSetsPair, semPairResolves, semSignalAdds, semSignalRejected⟩

end Sys2Proof.Machine
end
